-- ==== Sys2Proof/Word.lean ====
section
/-! DEFINITION. The bit vectors the ports carry. A port holds a raw bit pattern (00_scope.md R10, R11; 20_memory.md R24):
bit 0 of the port is bit 0 of the pattern, the sign is the most significant port bit, and nothing is ever addressed by byte. -/

namespace Sys2Proof

/-- A 32-bit port: at the same time a binary32 pattern and the unsigned integer of the same bits (R11). -/
abbrev Word32 := BitVec 32

/-- A 16-bit port: a binary16 or a bfloat16 pattern (R25). -/
abbrev Word16 := BitVec 16

/-- `zext_32` of R10. -/
abbrev zext32 (y : Word16) : Word32 := y.setWidth 32

end Sys2Proof
end

