-- ==== Sys2Proof/Config.lean ====
section
/-! DEFINITION. What the spec fixes once for the block (00_scope.md R9): the three data formats and the constant patterns.
R9 leaves no parameter open and R61 leaves no result open, so this file holds no uninterpreted constant: the machine has no
free value. There is no rounding-mode, flush-to-zero or NaN-mode parameter (10_state.md R16). -/

namespace Sys2Proof

/-- A binary floating-point format, by its field widths and its exponent bias (R9, R35). -/
structure Format where
  expBits : Nat
  manBits : Nat
  bias    : Nat
  deriving DecidableEq, Repr

/-- IEEE-754 binary32: 1 sign, 8 exponent (bias 127), 23 mantissa bits (R9, R35). -/
def binary32 : Format := ⟨8, 23, 127⟩

/-- IEEE-754 binary16: 1 sign, 5 exponent (bias 15), 10 mantissa bits (R9, R35). -/
def binary16 : Format := ⟨5, 10, 15⟩

/-- bfloat16: 1 sign, 8 exponent (bias 127), 7 mantissa bits (R9, R35). -/
def bfloat16 : Format := ⟨8, 7, 127⟩

namespace Format

/-- The all-ones exponent field, that of infinities and NaNs (R48 to R50). -/
def maxExp (f : Format) : Nat := 2 ^ f.expBits - 1

/-- The magnitude pattern of infinity: `0x7F800000`, `0x7C00`, `0x7F80` (R48 to R50). It is also the pattern of `Top(F)` (R55). -/
def infPattern (f : Format) : Nat := f.maxExp * 2 ^ f.manBits

end Format

/-- The canonical NaN's magnitude pattern on the f32 to f16 path (R9, R63). -/
def halfNaN : Nat := 0x7E00

/-- The infinity magnitude pattern of binary16 (R63). -/
def halfInf : Nat := 0x7C00

/-- The canonical positive NaN of the f32 to bf16 path (R9, R73). -/
def bf16NaNPos : Word16 := 0x7FC0#16

/-- The canonical negative NaN of the f32 to bf16 path (R9, R73). -/
def bf16NaNNeg : Word16 := 0xFFC0#16

end Sys2Proof
end

