-- ==== Sys2Proof/Machine/Operands.lean ====
section
/-! DEFINITION. How an operand is read into fields and a result is put together from fields (30_encoding.md R35, R41 to R43,
R45). Fields are unsigned integers of unbounded width, as R10 reads `v[hi:lo]`; the sign stays a bit. -/

namespace Sys2Proof.Machine

/-- The fields `s`, `e`, `m` of a pattern (R35). -/
structure Fields where
  s : BitVec 1
  e : Nat
  m : Nat
  deriving DecidableEq, Repr

/-- binary32 source: `s <- a[31]; e <- a[30:23]; m <- a[22:0]` (R45). -/
def fields32 (a : Word32) : Fields :=
  ⟨a.extractLsb' 31 1, (a.extractLsb' 23 8).toNat, (a.extractLsb' 0 23).toNat⟩

/-- binary16 source: `s <- h[15]; e <- h[14:10]; m <- h[9:0]` (R45). -/
def fields16 (h : Word16) : Fields :=
  ⟨h.extractLsb' 15 1, (h.extractLsb' 10 5).toNat, (h.extractLsb' 0 10).toNat⟩

/-- bfloat16 source: `s <- b[15]; e <- b[14:7]; m <- b[6:0]` (R45). -/
def fieldsBf16 (b : Word16) : Fields :=
  ⟨b.extractLsb' 15 1, (b.extractLsb' 7 8).toNat, (b.extractLsb' 0 7).toNat⟩

/-- The magnitude `|a| = a[30:0]` of a binary32 pattern (R48). -/
def mag32 (a : Word32) : Nat := (a.extractLsb' 0 31).toNat

/-- The magnitude `h[14:0]` of a 16-bit pattern (R49, R50). -/
def mag16 (h : Word16) : Nat := (h.extractLsb' 0 15).toNat

/-- `{s, P[14:0]}` (R62). -/
def pack16 (s : BitVec 1) (p : Nat) : Word16 := s ++ BitVec.ofNat 15 p

/-- `{s, e[7:0], m[22:0]}` (R67). -/
def pack32 (s : BitVec 1) (e m : Nat) : Word32 := s ++ BitVec.ofNat 8 e ++ BitVec.ofNat 23 m

/-- The source operand of an up-conversion in the wrapper: only `src[15:0]` is read (R42). -/
def lowHalf (src : Word32) : Word16 := src.extractLsb' 0 16

end Sys2Proof.Machine
end

