-- ==== Sys2Proof/Syntax.lean ====
section
/-! DEFINITION. The operations (one constructor per row of spec/opcode_table.json), the transaction, and the written forms of
30_encoding.md R46. An "instruction" is one conversion (00_scope.md R3); its only encoded field is `op[1:0]` (R41), and its
operand is what stands on the source port, so the constructors carry no argument (log entry 4). -/

namespace Sys2Proof

/-- The four operations of R41, destination format first. -/
inductive Instr where
  /-- `CVT.F16.F32`, op `00` (R62). -/
  | cvtF16F32
  /-- `CVT.BF16.F32`, op `01` (R72). -/
  | cvtBf16F32
  /-- `CVT.F32.F16`, op `10` (R67). -/
  | cvtF32F16
  /-- `CVT.F32.BF16`, op `11` (R77). -/
  | cvtF32Bf16
  deriving DecidableEq, Repr

/-- The mnemonic of R41. -/
def Instr.mnemonic : Instr → String
  | .cvtF16F32  => "CVT.F16.F32"
  | .cvtBf16F32 => "CVT.BF16.F32"
  | .cvtF32F16  => "CVT.F32.F16"
  | .cvtF32Bf16 => "CVT.F32.BF16"

/-- The source's function name for the operation (R47). -/
def Instr.sourceName : Instr → String
  | .cvtF16F32  => "float_to_half"
  | .cvtBf16F32 => "float_to_bfloat16"
  | .cvtF32F16  => "half_to_float"
  | .cvtF32Bf16 => "bfloat16_to_float"

/-- Whether the operation narrows (f32 to a 16-bit format): R12's down-conversion. -/
def Instr.isDown : Instr → Bool
  | .cvtF16F32  => true
  | .cvtBf16F32 => true
  | .cvtF32F16  => false
  | .cvtF32Bf16 => false

/-- One transaction's input pair (`op`, `src`) (R41). -/
structure Transaction where
  op  : Instr
  src : Word32
  deriving DecidableEq, Repr

/-- A transaction as a person or a tool writes it, `op:src`, before its numbers are known to fit the ports (R46). -/
structure RawTransaction where
  op  : Nat
  src : Nat
  deriving DecidableEq, Repr

/-- The source of a written line: a literal, or the name of an earlier destination, here its line number (R46). -/
inductive Source where
  | literal (v : Word32)
  | earlier (line : Nat)
  deriving DecidableEq, Repr

/-- One written line `<dest> = <MNEMONIC> <source>`; the destination's name is the line's number (R46, log entry 9). -/
structure Line where
  op     : Instr
  source : Source
  deriving DecidableEq, Repr

end Sys2Proof
end

