-- ==== Sys2Proof/Machine/State.lean ====
section
/-! DEFINITION. What is observable of the block: its ports, and nothing else (10_state.md R20). The block has no register, pc,
flag, control register, memory or hidden state (R13 to R19), so none stands here. An input port holds what its user drives; an
output port holds the value it last settled to (70_reset_and_hazards.md R101; log entry 1). -/

namespace Sys2Proof.Machine

/-- The ports of `fp_f32_to_f16_converter` (30_encoding.md R36). -/
structure F32ToF16Ports where
  f32In  : Word32
  f16Out : Word16
  deriving DecidableEq, Repr

/-- The ports of `fp_f32_to_bf16_converter` (R37). -/
structure F32ToBf16Ports where
  f32In   : Word32
  bf16Out : Word16
  deriving DecidableEq, Repr

/-- The ports of `fp_f16_to_f32_converter` (R38). -/
structure F16ToF32Ports where
  f16In  : Word16
  f32Out : Word32
  deriving DecidableEq, Repr

/-- The ports of `fp_bf16_to_f32_converter` (R39). -/
structure Bf16ToF32Ports where
  bf16In : Word16
  f32Out : Word32
  deriving DecidableEq, Repr

/-- The block: the wrapper `fp_cvt_core` (R40) and the four units standing beside it (R36 to R39, log entry 2). -/
structure State where
  /-- Wrapper input `op[1:0]` (R40). -/
  op            : BitVec 2
  /-- Wrapper input `src[31:0]` (R40). -/
  src           : Word32
  /-- Wrapper output `dst[31:0]` (R40). -/
  dst           : Word32
  f32ToF16Unit  : F32ToF16Ports
  f32ToBf16Unit : F32ToBf16Ports
  f16ToF32Unit  : F16ToF32Ports
  bf16ToF32Unit : Bf16ToF32Ports
  deriving DecidableEq, Repr

/-- The reasons the machine stops with a fault. There is none: "The block has no exception, trap or fault of any kind"
(60_exceptions.md R81), so the type is empty and no definition of this model can answer a fault. -/
inductive Fault
  deriving DecidableEq, Repr

/-- The reasons for which an instruction is given no meaning. -/
inductive Refusal where
  /-- Raised by an arm of `exec` that has no meaning yet; no arm of this model does (safe: the model stops). -/
  | notModelled (mnemonic : String)
  deriving DecidableEq, Repr

/-- The block as the model's runs start. The block has no reset input and no state to reset (R21, R96, R97). Every input port
starts driven to 0 (DESIGN CHOICE, log entry 3); every output port holds its rule's result for that input, as R97 says of
output ports after power-up. -/
def State.reset : State where
  op            := 0b00#2
  src           := 0#32
  dst           := 0#32
  f32ToF16Unit  := ⟨0#32, 0#16⟩
  f32ToBf16Unit := ⟨0#32, 0#16⟩
  f16ToF32Unit  := ⟨0#16, 0#32⟩
  bf16ToF32Unit := ⟨0#16, 0#32⟩

end Sys2Proof.Machine
end

