-- ==== Sys2Proof/Machine/Ops.lean ====
section
/-! DEFINITION. The named operations: reading and writing the ports, the user's driving of the input ports, and the rounding
step the down-conversions share. The block has no memory (20_memory.md R23), and nothing takes or returns from an exception
(60_exceptions.md R81, R85, R86), so no such operation stands here. -/

namespace Sys2Proof.Machine

/-- Round a truncated result `q` up or not, given the discarded part `r` and half a unit of `q`: nearest, ties to the even
`q` (40_numerics.md R56; the test of both rounding branches of 41_half_codec.md R62). -/
def roundTiesEven (q r half : Nat) : Nat :=
  if r > half ∨ (r = half ∧ q % 2 = 1) then q + 1 else q

namespace State

/-- The 32-bit source operand, `src[31:0]` (30_encoding.md R41). -/
def readSrc32 (s : State) : Word32 := s.src

/-- The 16-bit source operand, `src[15:0]`; `src[31:16]` is ignored (R42). -/
def readSrc16 (s : State) : Word16 := lowHalf s.src

/-- `dst[31:0] <- y` (R41). -/
def writeDst32 (s : State) (y : Word32) : State := { s with dst := y }

/-- `dst[15:0] <- y; dst[31:16] <- 0` (R43). -/
def writeDst16 (s : State) (y : Word16) : State := { s with dst := zext32 y }

/-- The user drives the wrapper's inputs; any pair is legal at any time (60_exceptions.md R95). -/
def driveWrapper (s : State) (op : BitVec 2) (src : Word32) : State := { s with op := op, src := src }

/-- The user drives `f32_in` of `fp_f32_to_f16_converter` (R36, R95). -/
def driveF32ToF16 (s : State) (a : Word32) : State := { s with f32ToF16Unit := { s.f32ToF16Unit with f32In := a } }

/-- The user drives `f32_in` of `fp_f32_to_bf16_converter` (R37, R95). -/
def driveF32ToBf16 (s : State) (a : Word32) : State := { s with f32ToBf16Unit := { s.f32ToBf16Unit with f32In := a } }

/-- The user drives `f16_in` of `fp_f16_to_f32_converter` (R38, R95). -/
def driveF16ToF32 (s : State) (h : Word16) : State := { s with f16ToF32Unit := { s.f16ToF32Unit with f16In := h } }

/-- The user drives `bf16_in` of `fp_bf16_to_f32_converter` (R39, R95). -/
def driveBf16ToF32 (s : State) (b : Word16) : State := { s with bf16ToF32Unit := { s.bf16ToF32Unit with bf16In := b } }

end State
end Sys2Proof.Machine
end

