-- ==== Sys2Proof/Machine/Bfloat16.lean ====
section
/-! DEFINITION. The bfloat16 codec (42_bfloat16_codec.md): the conversions between binary32 and bfloat16, by the pseudocode of
R72 and R77, and the meanings of their two operations. -/

namespace Sys2Proof.Machine

/-- `F32toBF16` (R72): the NaN test comes first (R73), then the rounding addition mod 2^32 and the top 16 bits. -/
def f32ToBf16 (a : Word32) : Word16 :=
  if (fields32 a).e = 255 ∧ (fields32 a).m ≠ 0 then
    if (fields32 a).s = 1#1 then bf16NaNNeg else bf16NaNPos
  else
    let bias : Word32 := 0x7FFF#32 + (a.extractLsb' 16 1).setWidth 32
    (a + bias).extractLsb' 16 16

/-- `BF16toF32` (R77): `{b[15:0], 16'h0000}`. -/
def bf16ToF32 (b : Word16) : Word32 := b ++ 0#16

/-- CVT.BF16.F32: `dst <- zext_32(F32toBF16(src[31:0]))` (R41, R72). -/
def execCvtBf16F32 (s : State) : Host.Outcome State Fault Refusal :=
  .next (s.writeDst16 (f32ToBf16 s.readSrc32))

/-- CVT.F32.BF16: `dst <- BF16toF32(src[15:0])` (R41, R77). -/
def execCvtF32Bf16 (s : State) : Host.Outcome State Fault Refusal :=
  .next (s.writeDst32 (bf16ToF32 s.readSrc16))

end Sys2Proof.Machine
end

