-- ==== Sys2Proof/Machine/Half.lean ====
section
/-! DEFINITION. The half-precision codec (41_half_codec.md): the conversions between binary32 and binary16, by the normative
pseudocode of R62 and R67, and the meanings of their two operations. -/

namespace Sys2Proof.Machine

/-- The 15-bit magnitude R62's pseudocode gives for the exponent and mantissa fields of a binary32 pattern. -/
def halfMagnitude (e m : Nat) : Nat :=
  if e = 255 ∧ m ≠ 0 then halfNaN
  else if e = 255 then halfInf
  else if 143 ≤ e then halfInf
  else if 113 ≤ e then
    roundTiesEven (((e - 112) <<< 10) ||| (m >>> 13)) (m % 2 ^ 13) 0x1000
  else
    let sig := if e = 0 then m else 2 ^ 23 + m
    let k := 126 - max e 1
    roundTiesEven (sig >>> k) (sig % 2 ^ k) (2 ^ (k - 1))

/-- `F32toF16` (R62). -/
def f32ToF16 (a : Word32) : Word16 :=
  pack16 (fields32 a).s (halfMagnitude (fields32 a).e (fields32 a).m)

/-- `F16toF32` (R67). The index of the most significant 1 bit of a nonzero `m` is `Nat.log2 m`. -/
def f16ToF32 (h : Word16) : Word32 :=
  let x := fields16 h
  if x.e = 31 then pack32 x.s 0xFF (x.m <<< 13)
  else if x.e = 0 ∧ x.m = 0 then pack32 x.s 0 0
  else if x.e = 0 then
    let p := Nat.log2 x.m
    pack32 x.s (p + 103) ((x.m <<< (23 - p)) % 2 ^ 23)
  else pack32 x.s (x.e + 112) (x.m <<< 13)

/-- CVT.F16.F32: `dst <- zext_32(F32toF16(src[31:0]))` (R41, R62). -/
def execCvtF16F32 (s : State) : Host.Outcome State Fault Refusal :=
  .next (s.writeDst16 (f32ToF16 s.readSrc32))

/-- CVT.F32.F16: `dst <- F16toF32(src[15:0])` (R41, R67). -/
def execCvtF32F16 (s : State) : Host.Outcome State Fault Refusal :=
  .next (s.writeDst32 (f16ToF32 s.readSrc16))

end Sys2Proof.Machine
end

