-- ==== Sys2Proof/Machine/Dispatch.lean ====
section
/-! DEFINITION. One arm per operation: the wrapper's transaction of 30_encoding.md R41. -/

namespace Sys2Proof.Machine

def exec (i : Instr) (s : State) : Host.Outcome State Fault Refusal :=
  match i with
  | .cvtF16F32 => Sys2Proof.Machine.execCvtF16F32 s
  | .cvtBf16F32 => Sys2Proof.Machine.execCvtBf16F32 s
  | .cvtF32F16 => Sys2Proof.Machine.execCvtF32F16 s
  | .cvtF32Bf16 => Sys2Proof.Machine.execCvtF32Bf16 s

end Sys2Proof.Machine
end

