-- ==== Sys2Proof/WellFormed.lean ====
section
/-! DEFINITION. What has to hold of a written form before it stands for anything. On the ports themselves nothing can be
ill-formed: every `op` value is assigned and every input pattern is a legal operand (30_encoding.md R44). -/

namespace Sys2Proof

/-- Every operation is well-formed: no operation value is reserved or illegal (R44). -/
def Instr.wf : Instr → Bool
  | .cvtF16F32  => true
  | .cvtBf16F32 => true
  | .cvtF32F16  => true
  | .cvtF32Bf16 => true

/-- A written transaction fits the ports `op[1:0]` and `src[31:0]` (R40, R46). -/
def RawTransaction.wf (r : RawTransaction) : Bool :=
  decide (r.op < 4) && decide (r.src < 2 ^ 32)

/-- The source of line number `n` is a literal or an earlier line (R46). -/
def Source.wf (n : Nat) : Source → Bool
  | .literal _    => true
  | .earlier line => decide (line < n)

/-- Every line names only earlier destinations; the first of `ls` has number `n` (R46). -/
def linesWf : Nat → List Line → Bool
  | _, []      => true
  | n, l :: ls => l.source.wf n && linesWf (n + 1) ls

end Sys2Proof
end

