-- ==== Sys2Proof/Decode.lean ====
section
/-! DEFINITION. Operation selection: the opcode map of 30_encoding.md R41, the 34-bit transaction word of R46, and their
encoders. The decoder on a port is total, because all four values of `op[1:0]` are assigned (R44); a number that does not fit
the ports is rejected by name. -/

namespace Sys2Proof

/-- The operation `op[1:0]` selects (R41). -/
def decodeOp (op : BitVec 2) : Instr :=
  if op = 0b00#2 then .cvtF16F32
  else if op = 0b01#2 then .cvtBf16F32
  else if op = 0b10#2 then .cvtF32F16
  else .cvtF32Bf16

/-- The `op[1:0]` value of an operation (R41). -/
def encodeOp : Instr → BitVec 2
  | .cvtF16F32  => 0b00#2
  | .cvtBf16F32 => 0b01#2
  | .cvtF32F16  => 0b10#2
  | .cvtF32Bf16 => 0b11#2

/-- The transaction of the 34-bit word `{op[1:0], src[31:0]}` (R46). -/
def decodeTransaction (w : BitVec 34) : Transaction :=
  ⟨decodeOp (w.extractLsb' 32 2), w.extractLsb' 0 32⟩

/-- The 34-bit word `{op[1:0], src[31:0]}` of a transaction (R46). -/
def encodeTransaction (t : Transaction) : BitVec 34 :=
  encodeOp t.op ++ t.src

/-- Why a written number stands for no transaction. -/
inductive DecodeReject where
  /-- The `op` number does not fit the port `op[1:0]`. -/
  | opTooWide
  /-- The `src` number does not fit the port `src[31:0]`. -/
  | srcTooWide
  /-- The number has more bits than the transaction word `{op[1:0], src[31:0]}`. -/
  | wordTooWide
  deriving DecidableEq, Repr

/-- A written pair `op:src` (R46): the transaction it stands for, or why it stands for none. -/
def decodeRaw (r : RawTransaction) : Except DecodeReject Transaction :=
  if 4 ≤ r.op then .error .opTooWide
  else if 2 ^ 32 ≤ r.src then .error .srcTooWide
  else .ok ⟨decodeOp (BitVec.ofNat 2 r.op), BitVec.ofNat 32 r.src⟩

/-- A number of any size read as a transaction word (R46), or rejected by name. -/
def decodeWord (n : Nat) : Except DecodeReject Transaction :=
  if 2 ^ 34 ≤ n then .error .wordTooWide
  else .ok (decodeTransaction (BitVec.ofNat 34 n))

/-- The two bits of a table word that spec/opcode_table.json gives an operation: its `mask` is `0x3`, so `op[1:0]` are bits
1..0 of the word and no other bit is looked at (log entry 5). -/
def tableOp (nbits w : Nat) : BitVec 2 :=
  BitVec.ofNat 2 (w % 2 ^ nbits)

/-- The operation of a word numbered as spec/opcode_table.json numbers its bits (log entry 5). -/
def decodeTableWord (nbits w : Nat) : Option Instr :=
  some (decodeOp (tableOp nbits w))

end Sys2Proof
end

