-- ==== Sys2Proof/Machine/Ports.lean ====
section
/-! DEFINITION. The function of (`op`, `src`) that 10_state.md R22 calls the model of the block, the settling of the four
units' output ports, and the user's reading of an output once it has settled (70_reset_and_hazards.md R101). -/

namespace Sys2Proof.Machine

/-- `convert : Op → BitVec 32 → BitVec 32` (R22), by the wrapper's pseudocode (30_encoding.md R41). -/
def convert : Instr → Word32 → Word32
  | .cvtF16F32, src  => zext32 (f32ToF16 src)
  | .cvtBf16F32, src => zext32 (f32ToBf16 src)
  | .cvtF32F16, src  => f16ToF32 (lowHalf src)
  | .cvtF32Bf16, src => bf16ToF32 (lowHalf src)

namespace State

/-- `f16_out` settles to R62 applied to `f32_in` (R36). -/
def settleF32ToF16 (s : State) : State :=
  { s with f32ToF16Unit := { s.f32ToF16Unit with f16Out := f32ToF16 s.f32ToF16Unit.f32In } }

/-- `bf16_out` settles to R72 applied to `f32_in` (R37). -/
def settleF32ToBf16 (s : State) : State :=
  { s with f32ToBf16Unit := { s.f32ToBf16Unit with bf16Out := f32ToBf16 s.f32ToBf16Unit.f32In } }

/-- `f32_out` settles to R67 applied to `f16_in` (R38). -/
def settleF16ToF32 (s : State) : State :=
  { s with f16ToF32Unit := { s.f16ToF32Unit with f32Out := f16ToF32 s.f16ToF32Unit.f16In } }

/-- `f32_out` settles to R77 applied to `bf16_in` (R39). -/
def settleBf16ToF32 (s : State) : State :=
  { s with bf16ToF32Unit := { s.bf16ToF32Unit with f32Out := bf16ToF32 s.bf16ToF32Unit.bf16In } }

/-- The four units settle. They are independent (60_exceptions.md R91), so the order written here does not matter. -/
def settleUnits (s : State) : State :=
  s.settleF32ToF16.settleF32ToBf16.settleF16ToF32.settleBf16ToF32

/-- `dst` is the rule's result for the held `op` and `src` (R101). -/
abbrev DstSettled (s : State) : Prop := s.dst = convert (decodeOp s.op) s.src

/-- `f16_out` is settled (R36, R101). -/
abbrev F16OutSettled (s : State) : Prop := s.f32ToF16Unit.f16Out = f32ToF16 s.f32ToF16Unit.f32In

/-- `bf16_out` is settled (R37, R101). -/
abbrev Bf16OutSettled (s : State) : Prop := s.f32ToBf16Unit.bf16Out = f32ToBf16 s.f32ToBf16Unit.f32In

/-- `f32_out` of `fp_f16_to_f32_converter` is settled (R38, R101). -/
abbrev F16F32OutSettled (s : State) : Prop := s.f16ToF32Unit.f32Out = f16ToF32 s.f16ToF32Unit.f16In

/-- `f32_out` of `fp_bf16_to_f32_converter` is settled (R39, R101). -/
abbrev Bf16F32OutSettled (s : State) : Prop := s.bf16ToF32Unit.f32Out = bf16ToF32 s.bf16ToF32Unit.bf16In

/-- The user reads `dst`: nothing before it has settled (R95, R101; 93_implementation_defined.md). -/
def readDst? (s : State) : Option Word32 := if s.DstSettled then some s.dst else none

/-- The user reads `f16_out` (R36, R95, R101). -/
def readF16Out? (s : State) : Option Word16 := if s.F16OutSettled then some s.f32ToF16Unit.f16Out else none

/-- The user reads `bf16_out` (R37, R95, R101). -/
def readBf16Out? (s : State) : Option Word16 := if s.Bf16OutSettled then some s.f32ToBf16Unit.bf16Out else none

/-- The user reads `f32_out` of `fp_f16_to_f32_converter` (R38, R95, R101). -/
def readF16F32Out? (s : State) : Option Word32 := if s.F16F32OutSettled then some s.f16ToF32Unit.f32Out else none

/-- The user reads `f32_out` of `fp_bf16_to_f32_converter` (R39, R95, R101). -/
def readBf16F32Out? (s : State) : Option Word32 := if s.Bf16F32OutSettled then some s.bf16ToF32Unit.f32Out else none

end State
end Sys2Proof.Machine
end

