-- ==== Sys2Proof/Machine/Step.lean ====
section
/-! DEFINITION. One step: every output port settles for the inputs now held (70_reset_and_hazards.md R101, R102; log entry 1).
The wrapper performs the operation its `op` port selects (30_encoding.md R41), and the four units beside it settle too. -/

namespace Sys2Proof.Machine

/-- The block settles: the four units, and the wrapper's transaction (`op`, `src`). -/
def step (s : State) : Host.Outcome State Fault Refusal :=
  exec (decodeOp s.op) s.settleUnits

/-- The user selects the operation of a table word on the wrapper's `op` port, where the next step finds it; the operand
stays what stands on `src` (log entry 5). -/
def State.withFetchWord (s : State) (nbits w : Nat) : State :=
  { s with op := tableOp nbits w }

end Sys2Proof.Machine
end

