-- ==== Sys2Proof/Machine/Numerics.lean ====
section
/-! DEFINITION. What the patterns mean: classes, values and round-to-nearest-even (40_numerics.md), over exact rationals. The
conversions themselves are computed with integers only (Half.lean, Bfloat16.lean); this file is what they are held against. -/

namespace Sys2Proof
namespace Machine

/-- The classes of R48 to R50. -/
inductive FpClass where
  | zero
  | subnormal
  | normal
  | infinity
  | nan
  deriving DecidableEq, Repr

/-- The value a pattern encodes (R51 to R53): a signed finite magnitude (so `+0` and `-0` differ), a signed infinity, or a
NaN with its sign and payload. -/
inductive FpValue where
  | finite (s : BitVec 1) (magnitude : ℚ)
  | infinity (s : BitVec 1)
  | nan (s : BitVec 1) (payload : Nat)
  deriving DecidableEq, Repr

end Machine

namespace Format

open Machine

/-- The class of a pattern, by its fields (R48 to R50). -/
def classOf (f : Format) (x : Fields) : FpClass :=
  if x.e = f.maxExp then (if x.m = 0 then .infinity else .nan)
  else if x.e = 0 then (if x.m = 0 then .zero else .subnormal)
  else .normal

/-- The magnitude the fields `e` and `m` give when `e` is an ordinary exponent: `2^(1-bias) * (m / 2^manBits)` for `e = 0`,
else `2^(e-bias) * (1 + m / 2^manBits)` (R51 to R53; and R55 for the exponent of infinity). -/
def ordinary (f : Format) (e m : Nat) : ℚ :=
  if e = 0 then 2 ^ ((1 : ℤ) - f.bias) * ((m : ℚ) / 2 ^ f.manBits)
  else 2 ^ ((e : ℤ) - f.bias) * (1 + (m : ℚ) / 2 ^ f.manBits)

/-- The value the format's own fields give a pattern (R51, R52; the formulas of R53). A NaN's payload is its mantissa field. -/
def valueOf (f : Format) (x : Fields) : FpValue :=
  match f.classOf x with
  | .zero      => .finite x.s 0
  | .subnormal => .finite x.s (f.ordinary x.e x.m)
  | .normal    => .finite x.s (f.ordinary x.e x.m)
  | .infinity  => .infinity x.s
  | .nan       => .nan x.s x.m

/-- A NaN is quiet when its most significant mantissa bit is 1 (R54). -/
def isQuiet (f : Format) (x : Fields) : Bool :=
  f.classOf x == .nan && x.m.testBit (f.manBits - 1)

/-- A NaN is signaling when its most significant mantissa bit is 0 (R54). -/
def isSignaling (f : Format) (x : Fields) : Bool :=
  f.classOf x == .nan && !x.m.testBit (f.manBits - 1)

/-- The point of `Grid+(F)` whose positive pattern is `p`, for `p` up to the infinity pattern, whose point is `Top(F)` (R55). -/
def gridPoint (f : Format) (p : Nat) : ℚ :=
  f.ordinary (p / 2 ^ f.manBits) (p % 2 ^ f.manBits)

/-- The greatest pattern not above `n` whose grid point is at most `x` (0 if there is none). -/
def floorPattern (f : Format) (x : ℚ) : Nat → Nat
  | 0     => 0
  | n + 1 => if f.gridPoint (n + 1) ≤ x then n + 1 else f.floorPattern x n

/-- `RNE(x, F)` for `x >= 0`, as the positive pattern of the chosen point of `Grid+(F)` (R56); `Top(F)` is the infinity
pattern (R57). -/
def rne (f : Format) (x : ℚ) : Nat :=
  let lo := f.floorPattern x f.infPattern
  let hi := lo + 1
  if f.gridPoint lo = x then lo
  else if lo = f.infPattern then lo
  else if x - f.gridPoint lo < f.gridPoint hi - x then lo
  else if x - f.gridPoint lo > f.gridPoint hi - x then hi
  else if lo % 2 = 0 then lo
  else hi

end Format

namespace Machine

/-- Class of a binary32 pattern (R48). -/
def class32 (a : Word32) : FpClass := binary32.classOf (fields32 a)
/-- Class of a binary16 pattern (R49). -/
def class16 (h : Word16) : FpClass := binary16.classOf (fields16 h)
/-- Class of a bfloat16 pattern (R50). -/
def classBf16 (b : Word16) : FpClass := bfloat16.classOf (fieldsBf16 b)

/-- Value of a binary32 pattern (R51). -/
def value32 (a : Word32) : FpValue := binary32.valueOf (fields32 a)
/-- Value of a binary16 pattern (R52). -/
def value16 (h : Word16) : FpValue := binary16.valueOf (fields16 h)
/-- Value of a bfloat16 pattern (R53): R53's own formulas where they give one, and for a NaN the sign and payload R51 gives the
binary32 pattern `{b, 16'h0000}`, whose mantissa field is `{b[6:0], 16'h0000}`. -/
def valueBf16 (b : Word16) : FpValue :=
  match bfloat16.valueOf (fieldsBf16 b) with
  | .finite s magnitude => .finite s magnitude
  | .infinity s         => .infinity s
  | .nan s payload      => .nan s (payload * 2 ^ 16)

/-- Whether a binary32 pattern is finite: its exponent field is not 255 (R48). -/
abbrev Finite32 (a : Word32) : Prop := (fields32 a).e ≠ 255

/-- The magnitude of a finite binary32 pattern as an exact rational (R51). -/
def abs32 (a : Word32) : ℚ := binary32.ordinary (fields32 a).e (fields32 a).m

/-- The meaning R62 gives CVT.F16.F32 in its "Semantics" clause: canonical NaN, infinity, or `RNE` of the value, under the
input's sign. -/
def halfNearest (a : Word32) : Word16 :=
  match class32 a with
  | .nan       => pack16 (fields32 a).s halfNaN
  | .infinity  => pack16 (fields32 a).s halfInf
  | .zero      => pack16 (fields32 a).s (binary16.rne (abs32 a))
  | .subnormal => pack16 (fields32 a).s (binary16.rne (abs32 a))
  | .normal    => pack16 (fields32 a).s (binary16.rne (abs32 a))

/-- The meaning R72 gives CVT.BF16.F32 in its "Semantics" clause. -/
def bf16Nearest (a : Word32) : Word16 :=
  match class32 a with
  | .nan       => if (fields32 a).s = 1#1 then bf16NaNNeg else bf16NaNPos
  | .infinity  => pack16 (fields32 a).s (bfloat16.infPattern)
  | .zero      => pack16 (fields32 a).s (bfloat16.rne (abs32 a))
  | .subnormal => pack16 (fields32 a).s (bfloat16.rne (abs32 a))
  | .normal    => pack16 (fields32 a).s (bfloat16.rne (abs32 a))

end Machine
end Sys2Proof
end

