-- ==== Sys2Proof/Machine/Flags.lean ====
section
/-! DEFINITION. The block has no flag and records no IEEE-754 condition (10_state.md R15, 60_exceptions.md R82), so no operation
here writes state. What R82's table does give is when each condition arises and what the block does then; the first is
written here as a predicate on a transaction, for statements to be made with. -/

namespace Sys2Proof.Machine

/-- The condition names of R82's table. -/
inductive Condition where
  | invalid
  | overflow
  | underflow
  | inexact
  | divideByZero
  deriving DecidableEq, Repr

/-- The least binary32 magnitude pattern that overflows the down-conversion (R57: `0x477FF000`, `0x7F7F8000`). -/
def overflowThreshold : Instr → Nat
  | .cvtF16F32  => 0x477FF000
  | .cvtBf16F32 => 0x7F7F8000
  | .cvtF32F16  => 2 ^ 31
  | .cvtF32Bf16 => 2 ^ 31

/-- The binary32 magnitude pattern of the destination's smallest normal (R65, R76); 0 where nothing is narrowed. -/
def normalThreshold : Instr → Nat
  | .cvtF16F32  => 0x38800000
  | .cvtBf16F32 => 0x00800000
  | .cvtF32F16  => 0
  | .cvtF32Bf16 => 0

/-- Whether the operand of the operation, read from `src`, is a signaling NaN (R54). -/
def operandSignaling : Instr → Word32 → Bool
  | .cvtF16F32, src  => binary32.isSignaling (fields32 src)
  | .cvtBf16F32, src => binary32.isSignaling (fields32 src)
  | .cvtF32F16, src  => binary16.isSignaling (fields16 (lowHalf src))
  | .cvtF32Bf16, src => bfloat16.isSignaling (fieldsBf16 (lowHalf src))

/-- Whether decoding the result gives back another pattern than the operand: the comparison R15 leaves to the caller. An
up-conversion loses nothing (R67, R77). -/
def roundTripDiffers : Instr → Word32 → Bool
  | .cvtF16F32, src  => f16ToF32 (f32ToF16 src) != src
  | .cvtBf16F32, src => bf16ToF32 (f32ToBf16 src) != src
  | .cvtF32F16, _    => false
  | .cvtF32Bf16, _   => false

/-- When a condition of R82's table arises in the transaction (`i`, `src`) (log entry 7). -/
def arises (i : Instr) (src : Word32) : Condition → Bool
  | .invalid      => operandSignaling i src
  | .overflow     => decide (Finite32 src) && decide (overflowThreshold i ≤ mag32 src)
  | .underflow    => decide (0 < mag32 src) && decide (mag32 src < normalThreshold i)
  | .inexact      => decide (Finite32 src) && roundTripDiffers i src
  | .divideByZero => false

end Sys2Proof.Machine
end

