-- ==== Sys2Proof/Machine/Multi.lean ====
section
/-! DEFINITION. Any number of instances side by side (60_exceptions.md R91, 20_memory.md R30). Instances have no identifiers of
their own; a place in the list only says which one is meant (log entry 8). -/

namespace Sys2Proof.Machine

/-- Some number of blocks, sharing nothing. -/
abbrev Blocks := List State

/-- The block at place `k` settles; the others are not looked at. A place that holds no block changes nothing. -/
def stepAt (k : Nat) (bs : Blocks) : Host.Outcome Blocks Fault Refusal :=
  match bs[k]? with
  | none   => .next bs
  | some s =>
    match step s with
    | .next t    => .next (bs.set k t)
    | .fault r   => .fault r
    | .refused r => .refused r

/-- The blocks at the given places settle in the given order. -/
def stepAll : List Nat → Blocks → Host.Outcome Blocks Fault Refusal
  | [], bs      => .next bs
  | k :: ks, bs =>
    match stepAt k bs with
    | .next cs   => stepAll ks cs
    | .fault r   => .fault r
    | .refused r => .refused r

end Sys2Proof.Machine
end

