-- ==== Sys2Proof/Machine/Program.lean ====
section
/-! DEFINITION. The user's side of a written program (30_encoding.md R46, 92_eei_decisions.md D13): a straight-line list of
transactions whose sources are literals or earlier results. The destinations are the user's variables, not state of the block
(10_state.md R22), so they stand in a list beside the machine, and the block itself holds no program (R14). -/

namespace Sys2Proof.Machine

/-- The value of a source, given the results of the earlier lines in order. -/
def sourceValue (results : List Word32) : Source → Option Word32
  | .literal v    => some v
  | .earlier line => results[line]?

/-- One line on the wrapper: drive `op` and `src`, let the block settle, read `dst`. -/
def runLine (results : List Word32) (l : Line) (s : State) : Option (Word32 × State) :=
  match sourceValue results l.source with
  | none     => none
  | some src =>
    match step (s.driveWrapper (encodeOp l.op) src) with
    | .next t    => t.readDst?.map (·, t)
    | .fault _   => none
    | .refused _ => none

/-- The lines in order; the results of all of them, oldest first, and the block afterwards. -/
def runLines (results : List Word32) : List Line → State → Option (List Word32 × State)
  | [], s      => some (results, s)
  | l :: ls, s =>
    match runLine results l s with
    | none        => none
    | some (y, t) => runLines (results ++ [y]) ls t

end Sys2Proof.Machine
end

