-- ==== Sys2Proof/Machine/Reference.lean ====
section
/-! DEFINITION. The informative reference algorithms of the half-precision codec (41_half_codec.md R66, R70), and the binary32
adder and subtractor they use. The normative functions are `f32ToF16` and `f16ToF32` (00_scope.md R8); nothing executes these.
The constants are the spec's own (log entry 6). -/

namespace Sys2Proof.Machine

/-- The magnitude of a finite binary32 pattern in units of 2^-149. With `flush`, the adder treats a subnormal operand as zero. -/
def adderUnits (flush : Bool) (u : Word32) : Nat :=
  let x := fields32 u
  if x.e = 0 then (if flush then 0 else x.m) else (2 ^ 23 + x.m) * 2 ^ (x.e - 1)

/-- The binary32 magnitude pattern nearest to `n` units of 2^-149, ties to even; from the overflow point on, infinity. -/
def roundUnits (n : Nat) : Nat :=
  if n < 2 ^ 24 then n
  else
    let k := Nat.log2 n - 23
    min (k <<< 23 + roundTiesEven (n >>> k) (n % 2 ^ k) (2 ^ (k - 1))) 0x7F800000

/-- The binary32 sum of two finite non-negative patterns, rounded to nearest even. -/
def addF32 (flush : Bool) (u v : Word32) : Word32 :=
  BitVec.ofNat 32 (roundUnits (adderUnits flush u + adderUnits flush v))

/-- The binary32 difference of two finite non-negative patterns, the first not less than the second. -/
def subF32 (flush : Bool) (u v : Word32) : Word32 :=
  BitVec.ofNat 32 (roundUnits (adderUnits flush u - adderUnits flush v))

/-- R66's overflow threshold, 65536.0. R64 says that any threshold from `0x477FF000` to `0x47800000` gives the same results, so
the algorithm below takes it as an argument. -/
def refThreshold : Word32 := 0x47800000#32

/-- R66's algorithm for CVT.F16.F32, with the overflow threshold `thr`. -/
def refF32ToF16 (thr : Word32) (flush : Bool) (a : Word32) : Word16 :=
  let sign := a &&& 0x80000000#32
  let u := a ^^^ sign
  let p : Word16 :=
    if thr ≤ u then
      if 0x7F800000#32 < u then 0x7E00#16 else 0x7C00#16
    else if u < 0x38800000#32 then
      (addF32 flush u 0x3F000000#32 - 0x3F000000#32).extractLsb' 0 16
    else
      let odd := (u >>> 13) &&& 1#32
      ((u + 0xC8000FFF#32 + odd) >>> 13).extractLsb' 0 16
  p ||| (sign >>> 16).extractLsb' 0 16

/-- R70's algorithm for CVT.F32.F16. -/
def refF16ToF32 (flush : Bool) (h : Word16) : Word32 :=
  let u : Word32 := (h.extractLsb' 0 15).setWidth 32 <<< 13
  let ex := u &&& 0x0F800000#32
  let u := u + 0x38000000#32
  let u :=
    if ex = 0x0F800000#32 then u + 0x38000000#32
    else if ex = 0#32 then subF32 flush (u + 0x00800000#32) 0x38800000#32
    else u
  u ||| ((h.extractLsb' 15 1).setWidth 32 <<< 31)

end Sys2Proof.Machine
end

