-- ==== Sys2Proof/Safety.lean ====
section
/-! DEFINITION. What counts as a safe run, in the terms the statements use. A step of this block cannot fault or be refused
(60_exceptions.md R81, 40_numerics.md R61), so safety is about the output ports: each holds what the semantics of its rule says
of its input port, told by values and by rounding (40_numerics.md), not by the pseudocode that computes it. -/

namespace Sys2Proof.Machine

/-- What R67 says of a binary32 pattern `y` widened from a binary16 pattern `h`: the same value, or for a NaN the same sign
with the payload moved to the top of the mantissa (R68; log entry 10). -/
def WidensF16 (h : Word16) (y : Word32) : Prop :=
  if class16 h = .nan then value32 y = .nan (fields16 h).s ((fields16 h).m * 2 ^ 13)
  else value32 y = value16 h

/-- What R77 and R78 say of a binary32 pattern `y` widened from a bfloat16 pattern `b`: the same value, which for a NaN is the
same sign with the payload at the top of the mantissa (R53). -/
def WidensBf16 (b : Word16) (y : Word32) : Prop := value32 y = valueBf16 b

/-- What the semantics of the selected rule says of `dst` (R41 to R43). -/
def DstFaithful (op : Instr) (src dst : Word32) : Prop :=
  match op with
  | .cvtF16F32  => dst = zext32 (halfNearest src)
  | .cvtBf16F32 => dst = zext32 (bf16Nearest src)
  | .cvtF32F16  => WidensF16 (lowHalf src) dst
  | .cvtF32Bf16 => WidensBf16 (lowHalf src) dst

/-- Every output port holds what its rule's semantics says of its input port (R20, R97). -/
structure OutputsFaithful (s : State) : Prop where
  dst     : DstFaithful (decodeOp s.op) s.src s.dst
  f16Out  : s.f32ToF16Unit.f16Out = halfNearest s.f32ToF16Unit.f32In
  bf16Out : s.f32ToBf16Unit.bf16Out = bf16Nearest s.f32ToBf16Unit.f32In
  f16F32  : WidensF16 s.f16ToF32Unit.f16In s.f16ToF32Unit.f32Out
  bf16F32 : WidensBf16 s.bf16ToF32Unit.bf16In s.bf16ToF32Unit.f32Out

/-- The input ports of two states agree. -/
structure SameInputs (s t : State) : Prop where
  op          : t.op = s.op
  src         : t.src = s.src
  f32ToF16In  : t.f32ToF16Unit.f32In = s.f32ToF16Unit.f32In
  f32ToBf16In : t.f32ToBf16Unit.f32In = s.f32ToBf16Unit.f32In
  f16ToF32In  : t.f16ToF32Unit.f16In = s.f16ToF32Unit.f16In
  bf16ToF32In : t.bf16ToF32Unit.bf16In = s.bf16ToF32Unit.bf16In

end Sys2Proof.Machine
end

