-- ==== Sys2Proof/Certificates/Slice0/Obligations.lean ====
section
/-! DEFINITION. The statements, one `def Obligations.<Name> : Prop` each, from the numbered rules of spec/. Each docstring names the
rule it formalises. -/

open Sys2Proof Sys2Proof.Machine

/-! ### Encoding and operation selection -/

/-- R41: what each value of `op[1:0]` leaves in `dst`, with the source bits read and the result bits written, and the mnemonic
it has. -/
def Obligations.OpCodeSelectsTheOperation : Prop :=
  (decodeOp 0b00#2).mnemonic = "CVT.F16.F32" ∧ (decodeOp 0b01#2).mnemonic = "CVT.BF16.F32" ∧
  (decodeOp 0b10#2).mnemonic = "CVT.F32.F16" ∧ (decodeOp 0b11#2).mnemonic = "CVT.F32.BF16" ∧
  ∀ s : State, ∃ t : State, step s = .next t ∧
    (s.op = 0b00#2 → t.dst = 0#16 ++ f32ToF16 s.src) ∧
    (s.op = 0b01#2 → t.dst = 0#16 ++ f32ToBf16 s.src) ∧
    (s.op = 0b10#2 → t.dst = f16ToF32 (s.src.extractLsb' 0 16)) ∧
    (s.op = 0b11#2 → t.dst = bf16ToF32 (s.src.extractLsb' 0 16))

/-- R41, R44: the operation codes and the operations are the same four things, in both directions. -/
def Obligations.OperationCodesDecodeAndEncodeAgree : Prop :=
  (∀ i : Instr, i.wf = true → decodeOp (encodeOp i) = i) ∧ (∀ op : BitVec 2, encodeOp (decodeOp op) = op)

/-- R46: every transaction is the decoding of its 34-bit word `{op, src}`, every word is the encoding of its transaction, and
the two fields stand where R46 puts them. -/
def Obligations.TransactionWordsDecodeAndEncodeAgree : Prop :=
  (∀ t : Transaction, decodeTransaction (encodeTransaction t) = t) ∧
  (∀ w : BitVec 34, encodeTransaction (decodeTransaction w) = w) ∧
  (∀ t : Transaction, (encodeTransaction t).toNat = (encodeOp t.op).toNat * 2 ^ 32 + t.src.toNat)

/-- R46, R44: a written number stands for a transaction exactly when it is that transaction's word, and a written pair
`op:src` exactly when it is well-formed and names that transaction's port values. That a number or a pair that does not fit the
ports is rejected is the model's choice (log entry 11, DESIGN CHOICE); the rules give no such number a meaning. -/
def Obligations.WrittenNumbersDecodeExactlyWhenTheyFit : Prop :=
  (∀ (n : Nat) (t : Transaction), decodeWord n = .ok t ↔ n = (encodeTransaction t).toNat) ∧
  (∀ (r : RawTransaction) (t : Transaction),
    decodeRaw r = .ok t ↔ r.wf = true ∧ r.op = (encodeOp t.op).toNat ∧ r.src = t.src.toNat) ∧
  (∀ r : RawTransaction, r.wf = false → ∃ e, decodeRaw r = .error e)

/-- R41, R46: four transaction words written out bit by bit, one for each operation. -/
def Obligations.WrittenWordsSelectTheirOperations : Prop :=
  decodeTransaction 0b0000111111100000000000000000000000#34 = ⟨.cvtF16F32, 0x3F800000#32⟩ ∧
  decodeTransaction 0b0100111111100000000000000000000000#34 = ⟨.cvtBf16F32, 0x3F800000#32⟩ ∧
  decodeTransaction 0b1011011110101011010011110000000000#34 = ⟨.cvtF32F16, 0xDEAD3C00#32⟩ ∧
  decodeTransaction 0b1111111111111111110011111111000000#34 = ⟨.cvtF32Bf16, 0xFFFF3FC0#32⟩

/-! ### The step -/

/-- A step is the operation the `op` port selects (R34, R41), run where the four units have settled (R101). That one step is one
settling of the whole block is the model's choice (log entry 1, DESIGN CHOICE); the rules have no step. -/
def Obligations.StepRunsTheSelectedOperation : Prop :=
  ∀ s : State, step s = exec (decodeOp s.op) s.settleUnits

/-- A step from a state that holds a table word runs exactly the operation that word decodes to, on the operand already on
`src` (log entry 5: the model's choice of what a table word sets). The operation stands in the word's bits 1 and 0, whenever
the word has them, and no other bit is looked at (the table's mask, R41). -/
def Obligations.TableWordRunsItsOperation : Prop :=
  (∀ (s : State) (nbits w : Nat) (i : Instr), decodeTableWord nbits w = some i →
    step (s.withFetchWord nbits w) = exec i (s.withFetchWord nbits w).settleUnits ∧
    (s.withFetchWord nbits w).src = s.src ∧ decodeOp (s.withFetchWord nbits w).op = i) ∧
  (∀ (nbits w : Nat) (i : Instr), 2 ≤ nbits →
    (decodeTableWord nbits w = some i ↔ w % 4 = (encodeOp i).toNat))

/-- R61, R81: from every state a step, and every operation, answers a next state; nothing faults and nothing is refused. -/
def Obligations.EveryStepAndOperationAnswersNext : Prop :=
  ∀ s : State, (∃ t, step s = .next t) ∧ ∀ i : Instr, ∃ t, exec i s = .next t

/-- R20: the block drives its output ports only; the input ports are the user's. -/
def Obligations.StepKeepsTheInputPorts : Prop :=
  ∀ s t : State, step s = .next t → SameInputs s t

/-- What a transaction of the wrapper leaves unchanged (R13 to R19, R41): every port but `dst`. -/
def Obligations.OperationsChangeOnlyDst : Prop :=
  ∀ (i : Instr) (s t : State), exec i s = .next t →
    t.op = s.op ∧ t.src = s.src ∧ t.f32ToF16Unit = s.f32ToF16Unit ∧ t.f32ToBf16Unit = s.f32ToBf16Unit ∧
    t.f16ToF32Unit = s.f16ToF32Unit ∧ t.bf16ToF32Unit = s.bf16ToF32Unit

/-- R20, R97: whatever the state, a step leaves every output port holding what its rule's semantics says of its input port,
told by values and by rounding. That a widened binary16 NaN keeps its payload is log entry 10's choice (D10). -/
def Obligations.EveryStepLeavesOutputsFaithful : Prop :=
  ∀ s t : State, step s = .next t → OutputsFaithful t

/-- The invariant holds at the start of a run. The inputs of 0 are the model's choice (log entry 3); R97 gives the outputs. -/
def Obligations.OutputsFaithfulAtReset : Prop :=
  OutputsFaithful State.reset

/-- R27, R101: while the inputs are held the outputs keep their values. A step is one settling (log entry 1). -/
def Obligations.OutputsStayWhileInputsAreHeld : Prop :=
  ∀ s t : State, step s = .next t → step t = .next t

/-- R19: each output is a function of its own current input alone. -/
def Obligations.OutputsDependOnTheirOwnInputAlone : Prop :=
  ∀ s s' t t' : State, step s = .next t → step s' = .next t' →
    (s.op = s'.op → s.src = s'.src → t.dst = t'.dst) ∧
    (s.f32ToF16Unit.f32In = s'.f32ToF16Unit.f32In → t.f32ToF16Unit.f16Out = t'.f32ToF16Unit.f16Out) ∧
    (s.f32ToBf16Unit.f32In = s'.f32ToBf16Unit.f32In → t.f32ToBf16Unit.bf16Out = t'.f32ToBf16Unit.bf16Out) ∧
    (s.f16ToF32Unit.f16In = s'.f16ToF32Unit.f16In → t.f16ToF32Unit.f32Out = t'.f16ToF32Unit.f32Out) ∧
    (s.bf16ToF32Unit.bf16In = s'.bf16ToF32Unit.bf16In → t.bf16ToF32Unit.f32Out = t'.bf16ToF32Unit.f32Out)

/-- R36 to R39: each unit's output is its conversion's rule applied to its input. -/
def Obligations.UnitOutputsFollowTheirRules : Prop :=
  ∀ s : State, ∃ t : State, step s = .next t ∧
    t.f32ToF16Unit = ⟨s.f32ToF16Unit.f32In, f32ToF16 s.f32ToF16Unit.f32In⟩ ∧
    t.f32ToBf16Unit = ⟨s.f32ToBf16Unit.f32In, f32ToBf16 s.f32ToBf16Unit.f32In⟩ ∧
    t.f16ToF32Unit = ⟨s.f16ToF32Unit.f16In, f16ToF32 s.f16ToF32Unit.f16In⟩ ∧
    t.bf16ToF32Unit = ⟨s.bf16ToF32Unit.bf16In, bf16ToF32 s.bf16ToF32Unit.bf16In⟩

/-- R95, R101: whatever the user drives, after the block has settled the user reads the rules' results on every output. One step
settles the block, and an unsettled output is not read, by the model's choice (log entry 1). -/
def Obligations.DrivenInputsAreReadAfterSettling : Prop :=
  ∀ (s : State) (op : BitVec 2) (src a b : Word32) (h c : Word16),
    ∃ t : State,
      step (((((s.driveWrapper op src).driveF32ToF16 a).driveF32ToBf16 b).driveF16ToF32 h).driveBf16ToF32 c) = .next t ∧
      t.readDst? = some (convert (decodeOp op) src) ∧
      t.readF16Out? = some (f32ToF16 a) ∧ t.readBf16Out? = some (f32ToBf16 b) ∧
      t.readF16F32Out? = some (f16ToF32 h) ∧ t.readBf16F32Out? = some (bf16ToF32 c)

/-- R30, R91: blocks settle independently. One block's settling takes that block where a step of it alone goes and leaves every
other block as it was, and any two orders of the same settlings give the same blocks. The list of blocks is the model's form
(log entry 8). -/
def Obligations.BlocksSettleIndependently : Prop :=
  (∀ (k : Nat) (bs : Blocks) (s t : State), bs[k]? = some s → step s = .next t → stepAt k bs = .next (bs.set k t)) ∧
  (∀ (k : Nat) (bs cs : Blocks), stepAt k bs = .next cs →
    cs.length = bs.length ∧ ∀ j, j ≠ k → cs[j]? = bs[j]?) ∧
  (∀ (ks ls : List Nat) (bs : Blocks), ks.Perm ls → stepAll ks bs = stepAll ls bs)

/-! ### CVT.F16.F32 -/

/-- R62, with R56 and R57: op `00`, in every state, and on the unit's port. Canonical NaN, infinity, or the binary16 pattern of
`RNE` of the exact value, under the input's sign; no flag, no exception. -/
def Obligations.CvtF16F32RoundsToNearestEven : Prop :=
  decodeOp 0b00#2 = .cvtF16F32 ∧
  (∀ s : State, exec .cvtF16F32 s = .next { s with dst := 0#16 ++ halfNearest s.src }) ∧
  (∀ s t : State, step s = .next t → t.f32ToF16Unit.f16Out = halfNearest s.f32ToF16Unit.f32In)

/-- R63: NaN and infinity, told by the magnitude pattern. -/
def Obligations.HalfOfNaNAndInfinity : Prop :=
  ∀ s : State,
    (0x7F800000 < mag32 s.src →
      exec .cvtF16F32 s = .next { s with dst := 0#16 ++ (s.src.extractLsb' 31 1 ++ 0x7E00#15) }) ∧
    (mag32 s.src = 0x7F800000 →
      exec .cvtF16F32 s = .next { s with dst := 0#16 ++ (s.src.extractLsb' 31 1 ++ 0x7C00#15) })

/-- R64: from magnitude 65520 on a finite input gives infinity, below 65536 through exponent 142 and its rounding carry and
from 65536 on through the exponents from 143; no finite input gives a NaN pattern. -/
def Obligations.HalfOverflow : Prop :=
  ∀ a : Word32, Finite32 a →
    (0x477FF000 ≤ mag32 a → f32ToF16 a = a.extractLsb' 31 1 ++ 0x7C00#15) ∧
    (0x477FF000 ≤ mag32 a → mag32 a < 0x47800000 →
      (fields32 a).e = 142 ∧ (30 <<< 10 ||| (fields32 a).m >>> 13) = 0x7BFF) ∧
    (0x47800000 ≤ mag32 a → 143 ≤ (fields32 a).e) ∧
    class16 (f32ToF16 a) ≠ .nan

/-- R65: below 2^-14 the result's magnitude pattern is the nearest multiple `q` of 2^-24, ties to even `q`, and `q` reaches
at most 1024. -/
def Obligations.HalfSubnormalResults : Prop :=
  ∀ a : Word32, mag32 a < 0x38800000 →
    ∃ q : Nat, q ≤ 1024 ∧ f32ToF16 a = a.extractLsb' 31 1 ++ BitVec.ofNat 15 q ∧
      |abs32 a - q * 2 ^ (-24 : ℤ)| ≤ 2 ^ (-25 : ℤ) ∧
      (|abs32 a - q * 2 ^ (-24 : ℤ)| = 2 ^ (-25 : ℤ) → q % 2 = 0)

/-- R66, R64: the reference algorithm with a round-to-nearest-even adder gives the normative result on all inputs, also when the
adder treats subnormal operands as zero, and whichever overflow threshold between `0x477FF000` and `0x47800000` it uses. The
constants are the spec's supply; the adder is the model's own (log entry 6, PRESUMED). -/
def Obligations.HalfReferenceAlgorithmAgrees : Prop :=
  ∀ (thr : Word32) (flush : Bool) (a : Word32), 0x477FF000 ≤ thr.toNat → thr.toNat ≤ 0x47800000 →
    refF32ToF16 thr flush a = f32ToF16 a

/-! ### CVT.F32.F16 -/

/-- R67: op `10`, in every state, and on the unit's port. The same value for every non-NaN input. That a NaN has its payload at
the top of the mantissa, not quietened, is the model's choice of R68's reading of the source (log entry 10; D10). -/
def Obligations.CvtF32F16WidensExactly : Prop :=
  decodeOp 0b10#2 = .cvtF32F16 ∧
  (∀ s : State, ∃ y : Word32, exec .cvtF32F16 s = .next { s with dst := y } ∧ WidensF16 (s.src.extractLsb' 0 16) y) ∧
  (∀ s t : State, step s = .next t → WidensF16 s.f16ToF32Unit.f16In t.f16ToF32Unit.f32Out)

/-- R68: exponent 31 widens to exponent 255 with the mantissa moved up; a signaling NaN stays signaling. For a NaN this is the
model's choice of R68's reading of the source (log entry 10; D10). -/
def Obligations.HalfNaNAndInfinityWiden : Prop :=
  ∀ h : Word16, (fields16 h).e = 31 →
    f16ToF32 h = h.extractLsb' 15 1 ++ 0xFF#8 ++ h.extractLsb' 0 10 ++ 0#13 ∧
    binary32.isSignaling (fields32 (f16ToF32 h)) = binary16.isSignaling (fields16 h) ∧
    binary32.isQuiet (fields32 (f16ToF32 h)) = binary16.isQuiet (fields16 h)

/-- R69: a binary16 subnormal becomes a binary32 normal: exponent `p + 103` for the leading 1 at `p`, the bits below it at the
top of the mantissa, and exactly the value `m * 2^-24`. A zero becomes the zero of its sign. -/
def Obligations.HalfSubnormalsWiden : Prop :=
  (∀ (h : Word16) (p : Nat), class16 h = .subnormal → 2 ^ p ≤ (fields16 h).m → (fields16 h).m < 2 ^ (p + 1) →
    class32 (f16ToF32 h) = .normal ∧
    fields32 (f16ToF32 h) = ⟨h.extractLsb' 15 1, p + 103, ((fields16 h).m - 2 ^ p) * 2 ^ (23 - p)⟩ ∧
    value32 (f16ToF32 h) = .finite (h.extractLsb' 15 1) ((fields16 h).m * 2 ^ (-24 : ℤ))) ∧
  (∀ h : Word16, class16 h = .zero → f16ToF32 h = h.extractLsb' 15 1 ++ 0#31)

/-- R70: the reference algorithm gives the normative result on all inputs. The constants are the spec's supply; the subtractor is
the model's own (log entry 6, PRESUMED). -/
def Obligations.WideningReferenceAlgorithmAgrees : Prop :=
  ∀ (flush : Bool) (h : Word16), refF16ToF32 flush h = f16ToF32 h

/-- R71: narrowing a widened binary16 pattern gives it back, and the canonical NaN of its sign for a NaN. -/
def Obligations.HalfRoundTrip : Prop :=
  ∀ h : Word16,
    (class16 h ≠ .nan → f32ToF16 (f16ToF32 h) = h) ∧
    (class16 h = .nan → f32ToF16 (f16ToF32 h) = h.extractLsb' 15 1 ++ 0x7E00#15)

/-! ### CVT.BF16.F32 -/

/-- R72, with R56 and R57: op `01`, in every state, and on the unit's port. -/
def Obligations.CvtBf16F32RoundsToNearestEven : Prop :=
  decodeOp 0b01#2 = .cvtBf16F32 ∧
  (∀ s : State, exec .cvtBf16F32 s = .next { s with dst := 0#16 ++ bf16Nearest s.src }) ∧
  (∀ s t : State, step s = .next t → t.f32ToBf16Unit.bf16Out = bf16Nearest s.f32ToBf16Unit.f32In)

/-- R73: a NaN gives the canonical NaN of its sign, whatever its payload. -/
def Obligations.BfloatOfNaN : Prop :=
  ∀ s : State, (fields32 s.src).e = 255 → (fields32 s.src).m ≠ 0 →
    (s.src.extractLsb' 31 1 = 1#1 → exec .cvtBf16F32 s = .next { s with dst := 0x0000FFC0#32 }) ∧
    (s.src.extractLsb' 31 1 = 0#1 → exec .cvtBf16F32 s = .next { s with dst := 0x00007FC0#32 })

/-- R74: for a non-NaN input the rounding addition does not wrap, keeps the sign, and carries into bit 16 exactly above the
midpoint or on the midpoint with the retained bit odd; on a finite input that is `RNE(x, bfloat16)` on the magnitude. -/
def Obligations.BfloatRoundingAddition : Prop :=
  ∀ a : Word32, class32 a ≠ .nan →
    a.toNat + (0x7FFF + (a.extractLsb' 16 1).toNat) < 2 ^ 32 ∧
    (a.extractLsb' 31 1 = 0#1 → a.toNat + (0x7FFF + (a.extractLsb' 16 1).toNat) ≤ 0x7F807FFF) ∧
    (f32ToBf16 a).extractLsb' 15 1 = a.extractLsb' 31 1 ∧
    (f32ToBf16 a).toNat = (a.extractLsb' 16 16).toNat +
      (if 0x8000 < (a.extractLsb' 0 16).toNat ∨
          ((a.extractLsb' 0 16).toNat = 0x8000 ∧ a.extractLsb' 16 1 = 1#1) then 1 else 0) ∧
    (Finite32 a → mag16 (f32ToBf16 a) = bfloat16.rne (abs32 a))

/-- R75: from magnitude pattern `0x7F7F8000` on a finite input gives infinity; infinity gives infinity; no finite input gives a
NaN pattern. -/
def Obligations.BfloatOverflow : Prop :=
  ∀ a : Word32,
    (Finite32 a → 0x7F7F8000 ≤ mag32 a → f32ToBf16 a = a.extractLsb' 31 1 ++ 0x7F80#15) ∧
    (class32 a = .infinity → f32ToBf16 a = a.extractLsb' 31 1 ++ 0x7F80#15) ∧
    (Finite32 a → classBf16 (f32ToBf16 a) ≠ .nan)

/-- R76: a binary32 subnormal gives the nearest multiple of 2^-133, ties to even, up to the smallest normal `0x0080`; nothing is
flushed to zero. -/
def Obligations.BfloatOfSubnormals : Prop :=
  ∀ a : Word32, class32 a = .subnormal →
    ∃ q : Nat, q ≤ 0x80 ∧ f32ToBf16 a = a.extractLsb' 31 1 ++ BitVec.ofNat 15 q ∧
      |abs32 a - q * 2 ^ (-133 : ℤ)| ≤ 2 ^ (-134 : ℤ) ∧
      (|abs32 a - q * 2 ^ (-133 : ℤ)| = 2 ^ (-134 : ℤ) → q % 2 = 0)

/-! ### CVT.F32.BF16 -/

/-- R77: op `11`, in every state, and on the unit's port: sixteen zero bits appended, so the same value. -/
def Obligations.CvtF32Bf16WidensExactly : Prop :=
  decodeOp 0b11#2 = .cvtF32Bf16 ∧
  (∀ s : State, exec .cvtF32Bf16 s = .next { s with dst := s.src.extractLsb' 0 16 ++ 0#16 }) ∧
  (∀ s t : State, step s = .next t →
    t.bf16ToF32Unit.f32Out = s.bf16ToF32Unit.bf16In ++ 0#16 ∧
    WidensBf16 s.bf16ToF32Unit.bf16In t.bf16ToF32Unit.f32Out)

/-- R78: a NaN keeps its sign and payload, and a signaling NaN stays signaling. -/
def Obligations.BfloatNaNWidens : Prop :=
  ∀ b : Word16, classBf16 b = .nan →
    class32 (bf16ToF32 b) = .nan ∧
    (bf16ToF32 b).extractLsb' 31 1 = b.extractLsb' 15 1 ∧
    (bf16ToF32 b).extractLsb' 16 7 = b.extractLsb' 0 7 ∧
    (bf16ToF32 b).extractLsb' 0 16 = 0#16 ∧
    binary32.isSignaling (fields32 (bf16ToF32 b)) = bfloat16.isSignaling (fieldsBf16 b)

/-- R79: narrowing a widened bfloat16 pattern gives it back, a NaN gives the canonical one, and widening is injective. -/
def Obligations.BfloatRoundTrip : Prop :=
  (∀ b : Word16, classBf16 b ≠ .nan → f32ToBf16 (bf16ToF32 b) = b) ∧
  (∀ b : Word16, classBf16 b = .nan →
    f32ToBf16 (bf16ToF32 b) = if b.extractLsb' 15 1 = 1#1 then 0xFFC0#16 else 0x7FC0#16) ∧
  (∀ b c : Word16, bf16ToF32 b = bf16ToF32 c → b = c)

/-- R80: narrowing and widening again moves a value by at most half the distance of the two adjacent grid points around it,
changes nothing exactly when the low half is zero, and gives infinity or the canonical NaN outside that range. -/
def Obligations.BfloatNarrowedAndWidenedAgain : Prop :=
  (∀ a : Word32, Finite32 a → classBf16 (f32ToBf16 a) ≠ .infinity →
    ∃ lo : Nat, lo < bfloat16.infPattern ∧
      bfloat16.gridPoint lo ≤ abs32 a ∧ abs32 a < bfloat16.gridPoint (lo + 1) ∧
      |abs32 (bf16ToF32 (f32ToBf16 a)) - abs32 a| ≤ (bfloat16.gridPoint (lo + 1) - bfloat16.gridPoint lo) / 2 ∧
      (bf16ToF32 (f32ToBf16 a)).extractLsb' 31 1 = a.extractLsb' 31 1 ∧
      (bf16ToF32 (f32ToBf16 a) = a ↔ a.extractLsb' 0 16 = 0#16)) ∧
  (∀ a : Word32, Finite32 a → 0x7F7F8000 ≤ mag32 a →
    bf16ToF32 (f32ToBf16 a) = a.extractLsb' 31 1 ++ 0x7F800000#31) ∧
  (∀ a : Word32, class32 a = .nan →
    bf16ToF32 (f32ToBf16 a) = if a.extractLsb' 31 1 = 1#1 then 0xFFC00000#32 else 0x7FC00000#32)

/-! ### All four operations -/

/-- R42: an up-conversion reads `src[15:0]` only. -/
def Obligations.UpConversionsIgnoreTheUpperHalf : Prop :=
  ∀ (s : State) (u v x : Word16),
    (∃ y : Word32, exec .cvtF32F16 { s with src := u ++ x } = .next { s with src := u ++ x, dst := y } ∧
      exec .cvtF32F16 { s with src := v ++ x } = .next { s with src := v ++ x, dst := y }) ∧
    (∃ y : Word32, exec .cvtF32Bf16 { s with src := u ++ x } = .next { s with src := u ++ x, dst := y } ∧
      exec .cvtF32Bf16 { s with src := v ++ x } = .next { s with src := v ++ x, dst := y })

/-- R43: a down-conversion leaves its 16-bit result in `dst[15:0]` and 0 in `dst[31:16]`. -/
def Obligations.DownConversionsClearTheUpperHalf : Prop :=
  ∀ s : State,
    (∃ t : State, exec .cvtF16F32 s = .next t ∧
      t.dst.extractLsb' 0 16 = f32ToF16 s.src ∧ t.dst.extractLsb' 16 16 = 0#16) ∧
    (∃ t : State, exec .cvtBf16F32 s = .next t ∧
      t.dst.extractLsb' 0 16 = f32ToBf16 s.src ∧ t.dst.extractLsb' 16 16 = 0#16)

/-- R58: every conversion copies the sign bit, on every input. -/
def Obligations.EveryConversionKeepsTheSign : Prop :=
  (∀ a : Word32, (f32ToF16 a).extractLsb' 15 1 = a.extractLsb' 31 1) ∧
  (∀ a : Word32, (f32ToBf16 a).extractLsb' 15 1 = a.extractLsb' 31 1) ∧
  (∀ h : Word16, (f16ToF32 h).extractLsb' 31 1 = h.extractLsb' 15 1) ∧
  (∀ b : Word16, (bf16ToF32 b).extractLsb' 31 1 = b.extractLsb' 15 1)

/-- R57: a finite input rounds to `Top` exactly from the stated magnitude patterns on, and then gives infinity with its sign. -/
def Obligations.OverflowThresholds : Prop :=
  ∀ a : Word32, Finite32 a →
    (binary16.rne (abs32 a) = binary16.infPattern ↔ 0x477FF000 ≤ mag32 a) ∧
    (0x477FF000 ≤ mag32 a ↔ 65520 ≤ abs32 a) ∧
    (f32ToF16 a = a.extractLsb' 31 1 ++ 0x7C00#15 ↔ 0x477FF000 ≤ mag32 a) ∧
    (bfloat16.rne (abs32 a) = bfloat16.infPattern ↔ 0x7F7F8000 ≤ mag32 a) ∧
    (0x7F7F8000 ≤ mag32 a ↔ (2 - 2 ^ (-8 : ℤ)) * 2 ^ (127 : ℤ) ≤ abs32 a) ∧
    (f32ToBf16 a = a.extractLsb' 31 1 ++ 0x7F80#15 ↔ 0x7F7F8000 ≤ mag32 a)

/-- R61: the semantics of the rules fixes exactly one output for every operation and every input. Which one it is for a widened
binary16 NaN is log entry 10's choice (D10); that it is one is not. -/
def Obligations.RulesFixExactlyOneOutput : Prop :=
  ∀ (i : Instr) (src : Word32), ∃! y : Word32, DstFaithful i src y

/-- R56: on positive inputs that are no NaN, the down-conversions keep the order of magnitudes. -/
def Obligations.DownConversionsAreMonotone : Prop :=
  ∀ a b : Word32, mag32 a ≤ mag32 b → class32 b ≠ .nan →
    mag16 (f32ToF16 a) ≤ mag16 (f32ToF16 b) ∧ mag16 (f32ToBf16 a) ≤ mag16 (f32ToBf16 b)

/-- R82's table: what each operation answers where another unit would signal a condition. Invalid: the canonical NaN of the
input's sign, or the NaN passed through and still signaling. Overflow: the infinity of the input's sign. Underflow and inexact:
`RNE` of the exact value under the input's sign, which on underflow reaches the smallest normal at most (R65, R76). When a
condition arises is the model's reading (log entry 7), and that a widened binary16 NaN stays signaling with its payload is the
model's choice (log entry 10; D10). -/
def Obligations.ConditionsGiveTheTabledResults : Prop :=
  ∀ s : State,
    (arises .cvtF16F32 s.src .invalid = true →
      exec .cvtF16F32 s = .next { s with dst := 0#16 ++ (s.src.extractLsb' 31 1 ++ 0x7E00#15) }) ∧
    (arises .cvtBf16F32 s.src .invalid = true →
      exec .cvtBf16F32 s = .next { s with dst := 0#16 ++ (s.src.extractLsb' 31 1 ++ 0x7FC0#15) }) ∧
    (arises .cvtF32F16 s.src .invalid = true →
      ∃ y : Word32, exec .cvtF32F16 s = .next { s with dst := y } ∧
        binary32.isSignaling (fields32 y) = true ∧
        value32 y = .nan (s.src.extractLsb' 15 1) ((s.src.extractLsb' 0 10).toNat * 2 ^ 13)) ∧
    (arises .cvtF32Bf16 s.src .invalid = true →
      ∃ y : Word32, exec .cvtF32Bf16 s = .next { s with dst := y } ∧
        binary32.isSignaling (fields32 y) = true ∧
        value32 y = .nan (s.src.extractLsb' 15 1) ((s.src.extractLsb' 0 7).toNat * 2 ^ 16)) ∧
    (arises .cvtF16F32 s.src .overflow = true →
      exec .cvtF16F32 s = .next { s with dst := 0#16 ++ (s.src.extractLsb' 31 1 ++ 0x7C00#15) }) ∧
    (arises .cvtBf16F32 s.src .overflow = true →
      exec .cvtBf16F32 s = .next { s with dst := 0#16 ++ (s.src.extractLsb' 31 1 ++ 0x7F80#15) }) ∧
    (arises .cvtF16F32 s.src .underflow = true ∨ arises .cvtF16F32 s.src .inexact = true →
      exec .cvtF16F32 s = .next { s with
        dst := 0#16 ++ (s.src.extractLsb' 31 1 ++ BitVec.ofNat 15 (binary16.rne (abs32 s.src))) }) ∧
    (arises .cvtBf16F32 s.src .underflow = true ∨ arises .cvtBf16F32 s.src .inexact = true →
      exec .cvtBf16F32 s = .next { s with
        dst := 0#16 ++ (s.src.extractLsb' 31 1 ++ BitVec.ofNat 15 (bfloat16.rne (abs32 s.src))) }) ∧
    (arises .cvtF16F32 s.src .underflow = true → binary16.rne (abs32 s.src) ≤ 0x0400) ∧
    (arises .cvtBf16F32 s.src .underflow = true → bfloat16.rne (abs32 s.src) ≤ 0x0080) ∧
    (∀ c : Condition, c ≠ .invalid → arises .cvtF32F16 s.src c = false ∧ arises .cvtF32Bf16 s.src c = false) ∧
    (∀ i : Instr, arises i s.src .divideByZero = false)

/-- R82's "where it arises" column, told by values: signaling NaN operands; finite magnitudes from 65520 and from
`(2 - 2^-8) * 2^127` on; nonzero values below the destination's normal range; finite values that are on no point of the
destination's grid, which for bfloat16 means that the discarded low half is not zero. The predicates are the model's reading
(log entry 7). -/
def Obligations.ConditionsAriseWhereTheTableSays : Prop :=
  ∀ src : Word32,
    (arises .cvtF16F32 src .invalid = true ↔ class32 src = .nan ∧ src.extractLsb' 22 1 = 0#1) ∧
    (arises .cvtBf16F32 src .invalid = true ↔ class32 src = .nan ∧ src.extractLsb' 22 1 = 0#1) ∧
    (arises .cvtF32F16 src .invalid = true ↔ class16 (src.extractLsb' 0 16) = .nan ∧ src.extractLsb' 9 1 = 0#1) ∧
    (arises .cvtF32Bf16 src .invalid = true ↔ classBf16 (src.extractLsb' 0 16) = .nan ∧ src.extractLsb' 6 1 = 0#1) ∧
    (arises .cvtF16F32 src .overflow = true ↔ Finite32 src ∧ 65520 ≤ abs32 src) ∧
    (arises .cvtBf16F32 src .overflow = true ↔ Finite32 src ∧ (2 - 2 ^ (-8 : ℤ)) * 2 ^ (127 : ℤ) ≤ abs32 src) ∧
    (arises .cvtF16F32 src .underflow = true ↔ 0 < abs32 src ∧ abs32 src < 2 ^ (-14 : ℤ)) ∧
    (arises .cvtBf16F32 src .underflow = true ↔ 0 < abs32 src ∧ abs32 src < 2 ^ (-126 : ℤ)) ∧
    (arises .cvtF16F32 src .inexact = true ↔ Finite32 src ∧ ∀ p : Nat, p < 0x7C00 → binary16.gridPoint p ≠ abs32 src) ∧
    (arises .cvtBf16F32 src .inexact = true ↔ Finite32 src ∧ src.extractLsb' 0 16 ≠ 0#16)

/-! ### Numerics -/

/-- R48, R49: the classes told by the magnitude pattern are the classes told by the fields. -/
def Obligations.ClassesByMagnitude : Prop :=
  (∀ a : Word32,
    (class32 a = .zero ↔ mag32 a = 0) ∧
    (class32 a = .subnormal ↔ 0x00000001 ≤ mag32 a ∧ mag32 a ≤ 0x007FFFFF) ∧
    (class32 a = .normal ↔ 0x00800000 ≤ mag32 a ∧ mag32 a ≤ 0x7F7FFFFF) ∧
    (class32 a = .infinity ↔ mag32 a = 0x7F800000) ∧
    (class32 a = .nan ↔ 0x7F800000 < mag32 a)) ∧
  (∀ h : Word16,
    (class16 h = .zero ↔ mag16 h = 0) ∧
    (class16 h = .subnormal ↔ 0x0001 ≤ mag16 h ∧ mag16 h ≤ 0x03FF) ∧
    (class16 h = .normal ↔ 0x0400 ≤ mag16 h ∧ mag16 h ≤ 0x7BFF) ∧
    (class16 h = .infinity ↔ mag16 h = 0x7C00) ∧
    (class16 h = .nan ↔ 0x7C00 < mag16 h))

/-- R50, R53: a bfloat16 pattern has the class and the value of the binary32 pattern `{b, 16'h0000}`, a NaN too, with its sign
and payload; the classes told by the magnitude pattern; R53's formulas for normals and subnormals; and the largest finite
magnitude. -/
def Obligations.BfloatIsTheHighHalf : Prop :=
  (∀ b : Word16,
    classBf16 b = class32 (b ++ 0#16) ∧
    valueBf16 b = value32 (b ++ 0#16) ∧
    (classBf16 b = .zero ↔ mag16 b = 0) ∧
    (classBf16 b = .subnormal ↔ 0x0001 ≤ mag16 b ∧ mag16 b ≤ 0x007F) ∧
    (classBf16 b = .normal ↔ 0x0080 ≤ mag16 b ∧ mag16 b ≤ 0x7F7F) ∧
    (classBf16 b = .infinity ↔ mag16 b = 0x7F80) ∧
    (classBf16 b = .nan ↔ 0x7F80 < mag16 b) ∧
    (classBf16 b = .normal → valueBf16 b = .finite (b.extractLsb' 15 1)
      (2 ^ (((fieldsBf16 b).e : ℤ) - 127) * (1 + ((fieldsBf16 b).m : ℚ) / 2 ^ 7))) ∧
    (classBf16 b = .subnormal → valueBf16 b = .finite (b.extractLsb' 15 1) ((fieldsBf16 b).m * 2 ^ (-133 : ℤ))) ∧
    (classBf16 b = .nan → valueBf16 b = .nan (b.extractLsb' 15 1) ((b.extractLsb' 0 7).toNat * 2 ^ 16))) ∧
  valueBf16 0x7F7F#16 = .finite 0#1 ((2 - 2 ^ (-7 : ℤ)) * 2 ^ (127 : ℤ))

/-- R55: below the infinity pattern the grid points are the values of the positive patterns, the infinity pattern's point is
`Top`, and the points increase strictly with the pattern. -/
def Obligations.GridPointsIncrease : Prop :=
  (∀ p q : Nat, p < q → q ≤ 0x7C00 → binary16.gridPoint p < binary16.gridPoint q) ∧
  (∀ p : Nat, p < 0x7C00 → value16 (BitVec.ofNat 16 p) = .finite 0#1 (binary16.gridPoint p)) ∧
  binary16.gridPoint 0x7C00 = 65536 ∧
  (∀ p q : Nat, p < q → q ≤ 0x7F80 → bfloat16.gridPoint p < bfloat16.gridPoint q) ∧
  (∀ p : Nat, p < 0x7F80 → valueBf16 (BitVec.ofNat 16 p) = .finite 0#1 (bfloat16.gridPoint p)) ∧
  bfloat16.gridPoint 0x7F80 = 2 ^ 128

/-- R52, R53: the landmark values of the two 16-bit formats. -/
def Obligations.LandmarkValues : Prop :=
  value16 0x3C00#16 = .finite 0#1 1 ∧
  value16 0x7BFF#16 = .finite 0#1 65504 ∧
  value16 0x0400#16 = .finite 0#1 (2 ^ (-14 : ℤ)) ∧
  value16 0x0001#16 = .finite 0#1 (2 ^ (-24 : ℤ)) ∧
  valueBf16 0x7F7F#16 = .finite 0#1 ((2 - 2 ^ (-7 : ℤ)) * 2 ^ (127 : ℤ)) ∧
  valueBf16 0x0001#16 = .finite 0#1 (2 ^ (-133 : ℤ))

/-- The source's own vectors (95_test_vectors.md L1). -/
def Obligations.SourceVectors : Prop :=
  f32ToF16 0x00000000#32 = 0x0000#16 ∧ f32ToF16 0x80000000#32 = 0x8000#16 ∧
  f32ToF16 0x3F800000#32 = 0x3C00#16 ∧ f16ToF32 0x3C00#16 = 0x3F800000#32 ∧
  f32ToF16 0x7F800000#32 = 0x7C00#16 ∧ f32ToF16 0x7F800001#32 = 0x7E00#16 ∧ f32ToF16 0xFFC00000#32 = 0xFE00#16 ∧
  f32ToBf16 0x7FBFFFFF#32 = 0x7FC0#16 ∧ f32ToBf16 0xFF800001#32 = 0xFFC0#16 ∧
  f32ToBf16 0x3F808000#32 = 0x3F80#16 ∧ f32ToBf16 0x3F818000#32 = 0x3F82#16 ∧
  f32ToF16 0x3F801000#32 = 0x3C00#16 ∧ f32ToF16 0x3F803000#32 = 0x3C02#16 ∧
  bf16ToF32 0x3FC0#16 = 0x3FC00000#32

/-! ### Programs -/

/-- R46, D13: a written program in which every line names a literal or an earlier destination runs to its end, in any state, and
each line's result is its operation applied to the value its source names; a program with any other line gives nothing. The
destinations are the user's (R22), and numbering them is the model's choice (log entry 9). -/
def Obligations.WellFormedProgramsRun : Prop :=
  ∀ (results : List Word32) (ls : List Line) (s : State),
    (linesWf results.length ls = true →
      ∃ (ys : List Word32) (t : State), runLines results ls s = some (results ++ ys, t) ∧ ys.length = ls.length ∧
        ∀ (k : Nat) (l : Line), ls[k]? = some l →
          ∃ src : Word32, sourceValue (results ++ ys.take k) l.source = some src ∧ ys[k]? = some (convert l.op src)) ∧
    (linesWf results.length ls = false → runLines results ls s = none)
end

