-- ==== Sys2Proof/Laws/Operands.lean ====
section
/-! SUPPORT. The fields of a pattern in terms of its magnitude, and a pattern put back together from sign and magnitude. -/

namespace Sys2Proof.Machine

@[simp] theorem fields32_s (a : Word32) : (fields32 a).s = a.extractLsb' 31 1 := rfl
@[simp] theorem fields16_s (h : Word16) : (fields16 h).s = h.extractLsb' 15 1 := rfl
@[simp] theorem fieldsBf16_s (b : Word16) : (fieldsBf16 b).s = b.extractLsb' 15 1 := rfl

theorem mag32_eq (a : Word32) : mag32 a = a.toNat % 2 ^ 31 := by
  simp [mag32]

theorem mag16_eq (h : Word16) : mag16 h = h.toNat % 2 ^ 15 := by
  simp [mag16]

theorem mag32_lt (a : Word32) : mag32 a < 2 ^ 31 := (a.extractLsb' 0 31).isLt
theorem mag16_lt (h : Word16) : mag16 h < 2 ^ 15 := (h.extractLsb' 0 15).isLt

theorem fields32_e (a : Word32) : (fields32 a).e = mag32 a / 2 ^ 23 := by
  simp only [fields32, mag32_eq, BitVec.extractLsb'_toNat, Nat.shiftRight_eq_div_pow]
  omega

theorem fields32_m (a : Word32) : (fields32 a).m = mag32 a % 2 ^ 23 := by
  simp only [fields32, mag32_eq, BitVec.extractLsb'_toNat, Nat.shiftRight_eq_div_pow]
  omega

theorem fields16_e (h : Word16) : (fields16 h).e = mag16 h / 2 ^ 10 := by
  simp only [fields16, mag16_eq, BitVec.extractLsb'_toNat, Nat.shiftRight_eq_div_pow]
  omega

theorem fields16_m (h : Word16) : (fields16 h).m = mag16 h % 2 ^ 10 := by
  simp only [fields16, mag16_eq, BitVec.extractLsb'_toNat, Nat.shiftRight_eq_div_pow]
  omega

theorem fieldsBf16_e (b : Word16) : (fieldsBf16 b).e = mag16 b / 2 ^ 7 := by
  simp only [fieldsBf16, mag16_eq, BitVec.extractLsb'_toNat, Nat.shiftRight_eq_div_pow]
  omega

theorem fieldsBf16_m (b : Word16) : (fieldsBf16 b).m = mag16 b % 2 ^ 7 := by
  simp only [fieldsBf16, mag16_eq, BitVec.extractLsb'_toNat, Nat.shiftRight_eq_div_pow]
  omega

theorem pack16_toNat (s : BitVec 1) (p : Nat) : (pack16 s p).toNat = s.toNat * 2 ^ 15 + p % 2 ^ 15 := by
  rw [pack16, BitVec.toNat_append, BitVec.toNat_ofNat, ← Nat.shiftLeft_add_eq_or_of_lt (Nat.mod_lt _ (by norm_num)),
    Nat.shiftLeft_eq]

theorem pack32_toNat (s : BitVec 1) (e m : Nat) :
    (pack32 s e m).toNat = s.toNat * 2 ^ 31 + (e % 2 ^ 8 * 2 ^ 23 + m % 2 ^ 23) := by
  rw [pack32, BitVec.toNat_append, BitVec.toNat_append, BitVec.toNat_ofNat, BitVec.toNat_ofNat,
    ← Nat.shiftLeft_add_eq_or_of_lt (Nat.mod_lt m (by norm_num)),
    ← Nat.shiftLeft_add_eq_or_of_lt (Nat.mod_lt e (by norm_num)), Nat.shiftLeft_eq, Nat.shiftLeft_eq]
  omega

/-- The sign bit of a binary32 pattern stands above its magnitude. -/
theorem toNat_eq_sign_mag32 (a : Word32) : a.toNat = (a.extractLsb' 31 1).toNat * 2 ^ 31 + mag32 a := by
  have := a.isLt
  simp only [mag32_eq, BitVec.extractLsb'_toNat, Nat.shiftRight_eq_div_pow]
  omega

/-- The sign bit of a 16-bit pattern stands above its magnitude. -/
theorem toNat_eq_sign_mag16 (h : Word16) : h.toNat = (h.extractLsb' 15 1).toNat * 2 ^ 15 + mag16 h := by
  have := h.isLt
  simp only [mag16_eq, BitVec.extractLsb'_toNat, Nat.shiftRight_eq_div_pow]
  omega

theorem mag16_pack16 (s : BitVec 1) (p : Nat) (hp : p < 2 ^ 15) : mag16 (pack16 s p) = p := by
  rw [mag16_eq, pack16_toNat]
  omega

theorem sign_pack16 (s : BitVec 1) (p : Nat) : (pack16 s p).extractLsb' 15 1 = s := by
  apply BitVec.eq_of_toNat_eq
  have := s.isLt
  simp only [BitVec.extractLsb'_toNat, pack16_toNat, Nat.shiftRight_eq_div_pow]
  omega

theorem mag32_pack32 (s : BitVec 1) (e m : Nat) (he : e < 2 ^ 8) (hm : m < 2 ^ 23) :
    mag32 (pack32 s e m) = e * 2 ^ 23 + m := by
  rw [mag32_eq, pack32_toNat]
  omega

theorem sign_pack32 (s : BitVec 1) (e m : Nat) : (pack32 s e m).extractLsb' 31 1 = s := by
  apply BitVec.eq_of_toNat_eq
  have := s.isLt
  simp only [BitVec.extractLsb'_toNat, pack32_toNat, Nat.shiftRight_eq_div_pow]
  omega

/-- Zero extension, as the concatenation R43 writes. -/
theorem zext32_eq_append (y : Word16) : zext32 y = 0#16 ++ y := by
  apply BitVec.eq_of_toNat_eq
  rw [BitVec.toNat_append, BitVec.toNat_setWidth]
  have := y.isLt
  simp
  omega

end Sys2Proof.Machine
end

