-- ==== Sys2Proof/Laws/State.lean ====
section
/-! SUPPORT. One lemma per field per update of State, true by rfl, so that no later proof unfolds a record update. -/

namespace Sys2Proof.Machine.State

variable (s : State)

/-! ### writeDst32 -/

@[simp] theorem writeDst32_op (y : Word32) : (s.writeDst32 y).op = s.op := rfl
@[simp] theorem writeDst32_src (y : Word32) : (s.writeDst32 y).src = s.src := rfl
@[simp] theorem writeDst32_dst (y : Word32) : (s.writeDst32 y).dst = y := rfl
@[simp] theorem writeDst32_f32ToF16Unit (y : Word32) : (s.writeDst32 y).f32ToF16Unit = s.f32ToF16Unit := rfl
@[simp] theorem writeDst32_f32ToBf16Unit (y : Word32) : (s.writeDst32 y).f32ToBf16Unit = s.f32ToBf16Unit := rfl
@[simp] theorem writeDst32_f16ToF32Unit (y : Word32) : (s.writeDst32 y).f16ToF32Unit = s.f16ToF32Unit := rfl
@[simp] theorem writeDst32_bf16ToF32Unit (y : Word32) : (s.writeDst32 y).bf16ToF32Unit = s.bf16ToF32Unit := rfl

/-! ### writeDst16 -/

@[simp] theorem writeDst16_op (y : Word16) : (s.writeDst16 y).op = s.op := rfl
@[simp] theorem writeDst16_src (y : Word16) : (s.writeDst16 y).src = s.src := rfl
@[simp] theorem writeDst16_dst (y : Word16) : (s.writeDst16 y).dst = zext32 y := rfl
@[simp] theorem writeDst16_f32ToF16Unit (y : Word16) : (s.writeDst16 y).f32ToF16Unit = s.f32ToF16Unit := rfl
@[simp] theorem writeDst16_f32ToBf16Unit (y : Word16) : (s.writeDst16 y).f32ToBf16Unit = s.f32ToBf16Unit := rfl
@[simp] theorem writeDst16_f16ToF32Unit (y : Word16) : (s.writeDst16 y).f16ToF32Unit = s.f16ToF32Unit := rfl
@[simp] theorem writeDst16_bf16ToF32Unit (y : Word16) : (s.writeDst16 y).bf16ToF32Unit = s.bf16ToF32Unit := rfl

/-! ### driveWrapper -/

@[simp] theorem driveWrapper_op (op : BitVec 2) (src : Word32) : (s.driveWrapper op src).op = op := rfl
@[simp] theorem driveWrapper_src (op : BitVec 2) (src : Word32) : (s.driveWrapper op src).src = src := rfl
@[simp] theorem driveWrapper_dst (op : BitVec 2) (src : Word32) : (s.driveWrapper op src).dst = s.dst := rfl
@[simp] theorem driveWrapper_f32ToF16Unit (op : BitVec 2) (src : Word32) : (s.driveWrapper op src).f32ToF16Unit = s.f32ToF16Unit := rfl
@[simp] theorem driveWrapper_f32ToBf16Unit (op : BitVec 2) (src : Word32) : (s.driveWrapper op src).f32ToBf16Unit = s.f32ToBf16Unit := rfl
@[simp] theorem driveWrapper_f16ToF32Unit (op : BitVec 2) (src : Word32) : (s.driveWrapper op src).f16ToF32Unit = s.f16ToF32Unit := rfl
@[simp] theorem driveWrapper_bf16ToF32Unit (op : BitVec 2) (src : Word32) : (s.driveWrapper op src).bf16ToF32Unit = s.bf16ToF32Unit := rfl

/-! ### withFetchWord -/

@[simp] theorem withFetchWord_op (nbits w : Nat) : (s.withFetchWord nbits w).op = tableOp nbits w := rfl
@[simp] theorem withFetchWord_src (nbits w : Nat) : (s.withFetchWord nbits w).src = s.src := rfl
@[simp] theorem withFetchWord_dst (nbits w : Nat) : (s.withFetchWord nbits w).dst = s.dst := rfl
@[simp] theorem withFetchWord_f32ToF16Unit (nbits w : Nat) : (s.withFetchWord nbits w).f32ToF16Unit = s.f32ToF16Unit := rfl
@[simp] theorem withFetchWord_f32ToBf16Unit (nbits w : Nat) : (s.withFetchWord nbits w).f32ToBf16Unit = s.f32ToBf16Unit := rfl
@[simp] theorem withFetchWord_f16ToF32Unit (nbits w : Nat) : (s.withFetchWord nbits w).f16ToF32Unit = s.f16ToF32Unit := rfl
@[simp] theorem withFetchWord_bf16ToF32Unit (nbits w : Nat) : (s.withFetchWord nbits w).bf16ToF32Unit = s.bf16ToF32Unit := rfl

/-! ### driveF32ToF16 -/

@[simp] theorem driveF32ToF16_op (x : Word32) : (s.driveF32ToF16 x).op = s.op := rfl
@[simp] theorem driveF32ToF16_src (x : Word32) : (s.driveF32ToF16 x).src = s.src := rfl
@[simp] theorem driveF32ToF16_dst (x : Word32) : (s.driveF32ToF16 x).dst = s.dst := rfl
@[simp] theorem driveF32ToF16_f32ToF16Unit (x : Word32) : (s.driveF32ToF16 x).f32ToF16Unit = ⟨x, s.f32ToF16Unit.f16Out⟩ := rfl
@[simp] theorem driveF32ToF16_f32ToBf16Unit (x : Word32) : (s.driveF32ToF16 x).f32ToBf16Unit = s.f32ToBf16Unit := rfl
@[simp] theorem driveF32ToF16_f16ToF32Unit (x : Word32) : (s.driveF32ToF16 x).f16ToF32Unit = s.f16ToF32Unit := rfl
@[simp] theorem driveF32ToF16_bf16ToF32Unit (x : Word32) : (s.driveF32ToF16 x).bf16ToF32Unit = s.bf16ToF32Unit := rfl

/-! ### settleF32ToF16 -/

@[simp] theorem settleF32ToF16_op : (s.settleF32ToF16).op = s.op := rfl
@[simp] theorem settleF32ToF16_src : (s.settleF32ToF16).src = s.src := rfl
@[simp] theorem settleF32ToF16_dst : (s.settleF32ToF16).dst = s.dst := rfl
@[simp] theorem settleF32ToF16_f32ToF16Unit : (s.settleF32ToF16).f32ToF16Unit = ⟨s.f32ToF16Unit.f32In, f32ToF16 s.f32ToF16Unit.f32In⟩ := rfl
@[simp] theorem settleF32ToF16_f32ToBf16Unit : (s.settleF32ToF16).f32ToBf16Unit = s.f32ToBf16Unit := rfl
@[simp] theorem settleF32ToF16_f16ToF32Unit : (s.settleF32ToF16).f16ToF32Unit = s.f16ToF32Unit := rfl
@[simp] theorem settleF32ToF16_bf16ToF32Unit : (s.settleF32ToF16).bf16ToF32Unit = s.bf16ToF32Unit := rfl

/-! ### driveF32ToBf16 -/

@[simp] theorem driveF32ToBf16_op (x : Word32) : (s.driveF32ToBf16 x).op = s.op := rfl
@[simp] theorem driveF32ToBf16_src (x : Word32) : (s.driveF32ToBf16 x).src = s.src := rfl
@[simp] theorem driveF32ToBf16_dst (x : Word32) : (s.driveF32ToBf16 x).dst = s.dst := rfl
@[simp] theorem driveF32ToBf16_f32ToF16Unit (x : Word32) : (s.driveF32ToBf16 x).f32ToF16Unit = s.f32ToF16Unit := rfl
@[simp] theorem driveF32ToBf16_f32ToBf16Unit (x : Word32) : (s.driveF32ToBf16 x).f32ToBf16Unit = ⟨x, s.f32ToBf16Unit.bf16Out⟩ := rfl
@[simp] theorem driveF32ToBf16_f16ToF32Unit (x : Word32) : (s.driveF32ToBf16 x).f16ToF32Unit = s.f16ToF32Unit := rfl
@[simp] theorem driveF32ToBf16_bf16ToF32Unit (x : Word32) : (s.driveF32ToBf16 x).bf16ToF32Unit = s.bf16ToF32Unit := rfl

/-! ### settleF32ToBf16 -/

@[simp] theorem settleF32ToBf16_op : (s.settleF32ToBf16).op = s.op := rfl
@[simp] theorem settleF32ToBf16_src : (s.settleF32ToBf16).src = s.src := rfl
@[simp] theorem settleF32ToBf16_dst : (s.settleF32ToBf16).dst = s.dst := rfl
@[simp] theorem settleF32ToBf16_f32ToF16Unit : (s.settleF32ToBf16).f32ToF16Unit = s.f32ToF16Unit := rfl
@[simp] theorem settleF32ToBf16_f32ToBf16Unit : (s.settleF32ToBf16).f32ToBf16Unit = ⟨s.f32ToBf16Unit.f32In, f32ToBf16 s.f32ToBf16Unit.f32In⟩ := rfl
@[simp] theorem settleF32ToBf16_f16ToF32Unit : (s.settleF32ToBf16).f16ToF32Unit = s.f16ToF32Unit := rfl
@[simp] theorem settleF32ToBf16_bf16ToF32Unit : (s.settleF32ToBf16).bf16ToF32Unit = s.bf16ToF32Unit := rfl

/-! ### driveF16ToF32 -/

@[simp] theorem driveF16ToF32_op (x : Word16) : (s.driveF16ToF32 x).op = s.op := rfl
@[simp] theorem driveF16ToF32_src (x : Word16) : (s.driveF16ToF32 x).src = s.src := rfl
@[simp] theorem driveF16ToF32_dst (x : Word16) : (s.driveF16ToF32 x).dst = s.dst := rfl
@[simp] theorem driveF16ToF32_f32ToF16Unit (x : Word16) : (s.driveF16ToF32 x).f32ToF16Unit = s.f32ToF16Unit := rfl
@[simp] theorem driveF16ToF32_f32ToBf16Unit (x : Word16) : (s.driveF16ToF32 x).f32ToBf16Unit = s.f32ToBf16Unit := rfl
@[simp] theorem driveF16ToF32_f16ToF32Unit (x : Word16) : (s.driveF16ToF32 x).f16ToF32Unit = ⟨x, s.f16ToF32Unit.f32Out⟩ := rfl
@[simp] theorem driveF16ToF32_bf16ToF32Unit (x : Word16) : (s.driveF16ToF32 x).bf16ToF32Unit = s.bf16ToF32Unit := rfl

/-! ### settleF16ToF32 -/

@[simp] theorem settleF16ToF32_op : (s.settleF16ToF32).op = s.op := rfl
@[simp] theorem settleF16ToF32_src : (s.settleF16ToF32).src = s.src := rfl
@[simp] theorem settleF16ToF32_dst : (s.settleF16ToF32).dst = s.dst := rfl
@[simp] theorem settleF16ToF32_f32ToF16Unit : (s.settleF16ToF32).f32ToF16Unit = s.f32ToF16Unit := rfl
@[simp] theorem settleF16ToF32_f32ToBf16Unit : (s.settleF16ToF32).f32ToBf16Unit = s.f32ToBf16Unit := rfl
@[simp] theorem settleF16ToF32_f16ToF32Unit : (s.settleF16ToF32).f16ToF32Unit = ⟨s.f16ToF32Unit.f16In, f16ToF32 s.f16ToF32Unit.f16In⟩ := rfl
@[simp] theorem settleF16ToF32_bf16ToF32Unit : (s.settleF16ToF32).bf16ToF32Unit = s.bf16ToF32Unit := rfl

/-! ### driveBf16ToF32 -/

@[simp] theorem driveBf16ToF32_op (x : Word16) : (s.driveBf16ToF32 x).op = s.op := rfl
@[simp] theorem driveBf16ToF32_src (x : Word16) : (s.driveBf16ToF32 x).src = s.src := rfl
@[simp] theorem driveBf16ToF32_dst (x : Word16) : (s.driveBf16ToF32 x).dst = s.dst := rfl
@[simp] theorem driveBf16ToF32_f32ToF16Unit (x : Word16) : (s.driveBf16ToF32 x).f32ToF16Unit = s.f32ToF16Unit := rfl
@[simp] theorem driveBf16ToF32_f32ToBf16Unit (x : Word16) : (s.driveBf16ToF32 x).f32ToBf16Unit = s.f32ToBf16Unit := rfl
@[simp] theorem driveBf16ToF32_f16ToF32Unit (x : Word16) : (s.driveBf16ToF32 x).f16ToF32Unit = s.f16ToF32Unit := rfl
@[simp] theorem driveBf16ToF32_bf16ToF32Unit (x : Word16) : (s.driveBf16ToF32 x).bf16ToF32Unit = ⟨x, s.bf16ToF32Unit.f32Out⟩ := rfl

/-! ### settleBf16ToF32 -/

@[simp] theorem settleBf16ToF32_op : (s.settleBf16ToF32).op = s.op := rfl
@[simp] theorem settleBf16ToF32_src : (s.settleBf16ToF32).src = s.src := rfl
@[simp] theorem settleBf16ToF32_dst : (s.settleBf16ToF32).dst = s.dst := rfl
@[simp] theorem settleBf16ToF32_f32ToF16Unit : (s.settleBf16ToF32).f32ToF16Unit = s.f32ToF16Unit := rfl
@[simp] theorem settleBf16ToF32_f32ToBf16Unit : (s.settleBf16ToF32).f32ToBf16Unit = s.f32ToBf16Unit := rfl
@[simp] theorem settleBf16ToF32_f16ToF32Unit : (s.settleBf16ToF32).f16ToF32Unit = s.f16ToF32Unit := rfl
@[simp] theorem settleBf16ToF32_bf16ToF32Unit : (s.settleBf16ToF32).bf16ToF32Unit = ⟨s.bf16ToF32Unit.bf16In, bf16ToF32 s.bf16ToF32Unit.bf16In⟩ := rfl

/-! ### settleUnits -/

@[simp] theorem settleUnits_op : (s.settleUnits).op = s.op := rfl
@[simp] theorem settleUnits_src : (s.settleUnits).src = s.src := rfl
@[simp] theorem settleUnits_dst : (s.settleUnits).dst = s.dst := rfl
@[simp] theorem settleUnits_f32ToF16Unit : (s.settleUnits).f32ToF16Unit = ⟨s.f32ToF16Unit.f32In, f32ToF16 s.f32ToF16Unit.f32In⟩ := rfl
@[simp] theorem settleUnits_f32ToBf16Unit : (s.settleUnits).f32ToBf16Unit = ⟨s.f32ToBf16Unit.f32In, f32ToBf16 s.f32ToBf16Unit.f32In⟩ := rfl
@[simp] theorem settleUnits_f16ToF32Unit : (s.settleUnits).f16ToF32Unit = ⟨s.f16ToF32Unit.f16In, f16ToF32 s.f16ToF32Unit.f16In⟩ := rfl
@[simp] theorem settleUnits_bf16ToF32Unit : (s.settleUnits).bf16ToF32Unit = ⟨s.bf16ToF32Unit.bf16In, bf16ToF32 s.bf16ToF32Unit.bf16In⟩ := rfl

end Sys2Proof.Machine.State
end

