-- ==== Sys2Proof/Laws/Ops.lean ====
section
/-! SUPPORT. One spec lemma per shared operation: what `exec`, `step`, `stepAt` and `runLine` answer, and what
the rounding step can give. -/

namespace Sys2Proof.Machine

/-- The rounding step gives the truncated result or the next one. -/
theorem roundTiesEven_cases (q r half : Nat) :
    (roundTiesEven q r half = q ∧ (r < half ∨ (r = half ∧ q % 2 = 0))) ∨
    (roundTiesEven q r half = q + 1 ∧ (half < r ∨ (r = half ∧ q % 2 = 1))) := by
  unfold roundTiesEven
  split <;> omega

theorem le_roundTiesEven (q r half : Nat) : q ≤ roundTiesEven q r half := by
  rcases roundTiesEven_cases q r half with ⟨h, _⟩ | ⟨h, _⟩ <;> omega

theorem roundTiesEven_le (q r half : Nat) : roundTiesEven q r half ≤ q + 1 := by
  rcases roundTiesEven_cases q r half with ⟨h, _⟩ | ⟨h, _⟩ <;> omega

/-- Every operation writes `dst` and nothing else. -/
theorem exec_eq (i : Instr) (s : State) : exec i s = .next { s with dst := convert i s.src } := by
  cases i <;> rfl

/-- Everything a step can do. -/
theorem step_eq (s : State) : step s = .next { s.settleUnits with dst := convert (decodeOp s.op) s.src } := by
  rw [step, exec_eq]
  rfl

/-- Everything the settling of one block among several can do. -/
theorem stepAt_cases (k : Nat) (bs : Blocks) :
    (bs[k]? = none ∧ stepAt k bs = .next bs) ∨
    (∃ s, bs[k]? = some s ∧
      stepAt k bs = .next (bs.set k { s.settleUnits with dst := convert (decodeOp s.op) s.src })) := by
  unfold stepAt
  cases h : bs[k]? with
  | none => exact .inl ⟨rfl, rfl⟩
  | some s => exact .inr ⟨s, rfl, by simp [step_eq]⟩

/-- The code of an operation selects it on the `op` port. -/
@[simp] theorem decodeOp_encodeOp (i : Instr) : decodeOp (encodeOp i) = i := by
  cases i <;> decide

/-- Everything a line of a program can do: nothing where its source names no earlier result, else its operation's result. -/
theorem runLine_cases (results : List Word32) (l : Line) (s : State) :
    (sourceValue results l.source = none ∧ runLine results l s = none) ∨
    (∃ src t, sourceValue results l.source = some src ∧ step (s.driveWrapper (encodeOp l.op) src) = .next t ∧
      runLine results l s = some (convert l.op src, t)) := by
  unfold runLine
  cases h : sourceValue results l.source with
  | none => exact .inl ⟨rfl, rfl⟩
  | some src => exact .inr ⟨src, _, rfl, step_eq _, by simp [step_eq, State.readDst?, State.DstSettled]⟩

end Sys2Proof.Machine
end

