-- ==== Sys2Proof/Laws/Bfloat16.lean ====
section
/-! SUPPORT. The bfloat16 conversions in plain arithmetic on the magnitude. -/

namespace Sys2Proof.Machine

/-- Away from NaN, R72's addition and truncation is the shared rounding step on the magnitude. -/
theorem f32ToBf16_eq_pack {a : Word32} (h : mag32 a ≤ 0x7F800000) :
    f32ToBf16 a = pack16 (a.extractLsb' 31 1) (roundTiesEven (mag32 a / 2 ^ 16) (mag32 a % 2 ^ 16) (2 ^ 15)) := by
  have hnan : ¬((fields32 a).e = 255 ∧ (fields32 a).m ≠ 0) := by
    rw [fields32_e, fields32_m]; omega
  have ha := toNat_eq_sign_mag32 a
  have hs := (a.extractLsb' 31 1).isLt
  apply BitVec.eq_of_toNat_eq
  rw [f32ToBf16, if_neg hnan, pack16_toNat]
  have hl : (a.extractLsb' 16 1).toNat = a.toNat / 2 ^ 16 % 2 := by
    simp [Nat.shiftRight_eq_div_pow]
  have hb : ((0x7FFF#32 + (a.extractLsb' 16 1).setWidth 32 : Word32)).toNat = 0x7FFF + a.toNat / 2 ^ 16 % 2 := by
    rw [BitVec.toNat_add, BitVec.toNat_setWidth, hl]
    simp only [BitVec.toNat_ofNat]
    omega
  generalize (a.extractLsb' 31 1).toNat = s at *
  simp only [BitVec.extractLsb'_toNat, BitVec.toNat_add a, hb, Nat.shiftRight_eq_div_pow]
  clear hb hl hnan
  generalize mag32 a = x at *
  generalize a.toNat = n at *
  obtain ⟨q, r, hr, rfl⟩ : ∃ q r, r < 2 ^ 16 ∧ x = q * 2 ^ 16 + r :=
    ⟨x / 2 ^ 16, x % 2 ^ 16, Nat.mod_lt _ (by norm_num), by omega⟩
  have hq : (q * 2 ^ 16 + r) / 2 ^ 16 = q := by omega
  have hm : (q * 2 ^ 16 + r) % 2 ^ 16 = r := by omega
  have hp : n / 2 ^ 16 % 2 = q % 2 := by omega
  rw [hq, hm, hp]
  clear hp hq hm
  have hd : ∀ u c, u < 2 ^ 16 → (u * 2 ^ 16 + c) / 2 ^ 16 = u + c / 2 ^ 16 := by omega
  have hn : n + (0x7FFF + q % 2) = (s * 2 ^ 15 + q) * 2 ^ 16 + (r + (0x7FFF + q % 2)) := by omega
  have hlt : n + (0x7FFF + q % 2) < 2 ^ 32 := by omega
  rw [Nat.mod_eq_of_lt hlt, hn, hd _ _ (by omega)]
  have h2 : q % 2 = 0 ∨ q % 2 = 1 := by omega
  rcases roundTiesEven_cases q r (2 ^ 15) with ⟨h1, h3⟩ | ⟨h1, h3⟩ <;> rw [h1] <;>
    rcases h2 with h2 | h2 <;> rw [h2] at h3 ⊢ <;> omega

/-- A NaN gives the canonical NaN of its sign. -/
theorem f32ToBf16_nan {a : Word32} (h : 0x7F800000 < mag32 a) :
    f32ToBf16 a = if a.extractLsb' 31 1 = 1#1 then 0xFFC0#16 else 0x7FC0#16 := by
  have hlt := mag32_lt a
  have hnan : (fields32 a).e = 255 ∧ (fields32 a).m ≠ 0 := by
    rw [fields32_e, fields32_m]; omega
  rw [f32ToBf16, if_pos hnan]
  rfl

theorem bf16ToF32_toNat (b : Word16) : (bf16ToF32 b).toNat = b.toNat * 2 ^ 16 := by
  rw [bf16ToF32, BitVec.toNat_append, BitVec.toNat_ofNat]
  simp [Nat.shiftLeft_eq]

theorem mag32_bf16ToF32 (b : Word16) : mag32 (bf16ToF32 b) = mag16 b * 2 ^ 16 := by
  rw [mag32_eq, mag16_eq, bf16ToF32_toNat]
  omega

theorem sign_bf16ToF32 (b : Word16) : (bf16ToF32 b).extractLsb' 31 1 = b.extractLsb' 15 1 := by
  apply BitVec.eq_of_toNat_eq
  simp only [BitVec.extractLsb'_toNat, bf16ToF32_toNat, Nat.shiftRight_eq_div_pow]
  omega

end Sys2Proof.Machine
end

