-- ==== Sys2Proof/Laws/Half.lean ====
section
/-! SUPPORT. One lemma per branch of the half-precision conversions, in plain arithmetic on the fields. -/

namespace Sys2Proof.Machine

/-- R62's normal branch, without shifts. -/
theorem halfMagnitude_normal {e m : Nat} (h1 : 113 ≤ e) (h2 : e < 143) (hm : m < 2 ^ 23) :
    halfMagnitude e m = roundTiesEven ((e - 112) * 2 ^ 10 + m / 2 ^ 13) (m % 2 ^ 13) (2 ^ 12) := by
  have hlt : m / 2 ^ 13 < 2 ^ 10 := by omega
  rw [halfMagnitude, if_neg (by omega), if_neg (by omega), if_neg (by omega), if_pos h1,
    Nat.shiftRight_eq_div_pow, ← Nat.shiftLeft_add_eq_or_of_lt hlt, Nat.shiftLeft_eq]
  rfl

/-- R62's subnormal branch, without shifts. -/
theorem halfMagnitude_small {e m : Nat} (h : e < 113) :
    halfMagnitude e m =
      roundTiesEven ((if e = 0 then m else 2 ^ 23 + m) / 2 ^ (126 - max e 1))
        ((if e = 0 then m else 2 ^ 23 + m) % 2 ^ (126 - max e 1)) (2 ^ (125 - max e 1)) := by
  rw [halfMagnitude, if_neg (by omega), if_neg (by omega), if_neg (by omega), if_neg (by omega)]
  simp only [Nat.shiftRight_eq_div_pow]
  congr 2
  omega

/-- R62's overflow and infinity branches. -/
theorem halfMagnitude_big {e m : Nat} (h : 143 ≤ e) (hn : e = 255 → m = 0) : halfMagnitude e m = 0x7C00 := by
  rw [halfMagnitude, if_neg (by tauto)]
  simp [h, halfInf]

/-- R62's NaN branch. -/
theorem halfMagnitude_nan {m : Nat} (hm : m ≠ 0) : halfMagnitude 255 m = 0x7E00 := by
  simp [halfMagnitude, hm, halfNaN]

/-- The truncated significand of the subnormal branch stays below the smallest normal. -/
theorem half_small_lt {e m : Nat} (h : e < 113) (hm : m < 2 ^ 23) :
    (if e = 0 then m else 2 ^ 23 + m) / 2 ^ (126 - max e 1) < 2 ^ 10 := by
  have hk : 14 ≤ 126 - max e 1 := by omega
  have hs : (if e = 0 then m else 2 ^ 23 + m) < 2 ^ 24 := by split <;> omega
  rw [Nat.div_lt_iff_lt_mul (by positivity)]
  calc _ < 2 ^ 24 := hs
    _ = 2 ^ 10 * 2 ^ 14 := by norm_num
    _ ≤ 2 ^ 10 * 2 ^ (126 - max e 1) := by gcongr; norm_num

/-- The magnitude of a half result fits its 15 bits, and is a NaN's only for a NaN. -/
theorem halfMagnitude_le {e m : Nat} (hm : m < 2 ^ 23) (hn : e = 255 → m = 0) : halfMagnitude e m ≤ 0x7C00 := by
  by_cases h3 : 143 ≤ e
  · exact (halfMagnitude_big h3 hn).le
  by_cases h2 : 113 ≤ e
  · rw [halfMagnitude_normal h2 (by omega) hm]
    have := roundTiesEven_le ((e - 112) * 2 ^ 10 + m / 2 ^ 13) (m % 2 ^ 13) (2 ^ 12)
    omega
  · rw [halfMagnitude_small (by omega)]
    have := half_small_lt (by omega : e < 113) hm
    have := roundTiesEven_le ((if e = 0 then m else 2 ^ 23 + m) / 2 ^ (126 - max e 1))
      ((if e = 0 then m else 2 ^ 23 + m) % 2 ^ (126 - max e 1)) (2 ^ (125 - max e 1))
    omega

theorem halfMagnitude_lt {e m : Nat} (hm : m < 2 ^ 23) : halfMagnitude e m < 2 ^ 15 := by
  by_cases hn : e = 255 → m = 0
  · have := halfMagnitude_le hm hn
    omega
  · obtain ⟨rfl, h⟩ : e = 255 ∧ m ≠ 0 := by tauto
    rw [halfMagnitude_nan h]
    norm_num

/-- The magnitude pattern of `F16toF32(h)`, branch by branch (R67). -/
theorem f16ToF32_eq_pack (h : Word16) :
    ∃ e m : Nat, f16ToF32 h = pack32 (h.extractLsb' 15 1) e m ∧ e < 2 ^ 8 ∧ m < 2 ^ 23 ∧
      ((mag16 h / 2 ^ 10 = 31 ∧ e = 255 ∧ m = mag16 h % 2 ^ 10 * 2 ^ 13) ∨
       (mag16 h = 0 ∧ e = 0 ∧ m = 0) ∨
       (∃ p, p ≤ 9 ∧ 2 ^ p ≤ mag16 h ∧ mag16 h < 2 ^ (p + 1) ∧ e = p + 103 ∧ m = (mag16 h - 2 ^ p) * 2 ^ (23 - p)) ∨
       (1 ≤ mag16 h / 2 ^ 10 ∧ mag16 h / 2 ^ 10 ≤ 30 ∧ e = mag16 h / 2 ^ 10 + 112 ∧
          m = mag16 h % 2 ^ 10 * 2 ^ 13)) := by
  have hlt := mag16_lt h
  have hm : (fields16 h).m < 2 ^ 10 := by rw [fields16_m]; omega
  unfold f16ToF32
  simp only [fields16_s, fields16_e, Nat.shiftLeft_eq]
  rw [fields16_m] at *
  split
  · next h1 => exact ⟨_, _, rfl, by norm_num, by omega, .inl ⟨h1, rfl, rfl⟩⟩
  split
  · next h1 => exact ⟨_, _, rfl, by norm_num, by norm_num, .inr (.inl ⟨by omega, rfl, rfl⟩)⟩
  split
  · next _ h1 h2 =>
    have hmag : mag16 h % 2 ^ 10 = mag16 h := by omega
    have hne : mag16 h ≠ 0 := by rintro h0; apply h1; simp [h0]
    rw [hmag]
    have hp1 := Nat.log2_self_le hne
    have hp2 : mag16 h < 2 ^ (Nat.log2 (mag16 h) + 1) := Nat.lt_log2_self
    generalize Nat.log2 (mag16 h) = p at *
    have hp : p ≤ 9 := by
      by_contra hp
      have : 2 ^ 10 ≤ 2 ^ p := Nat.pow_le_pow_right (by norm_num) (by omega)
      omega
    have hpow : 2 ^ p * 2 ^ (23 - p) = 2 ^ 23 := by rw [← pow_add]; congr 1; omega
    have hmod : mag16 h * 2 ^ (23 - p) % 2 ^ 23 = (mag16 h - 2 ^ p) * 2 ^ (23 - p) := by
      obtain ⟨d, hd⟩ := Nat.exists_eq_add_of_le hp1
      have hd2 : d < 2 ^ p := by rw [pow_succ] at hp2; omega
      have hdl : d * 2 ^ (23 - p) < 2 ^ 23 := by
        rw [← hpow]; exact Nat.mul_lt_mul_of_pos_right hd2 (by positivity)
      rw [hd, Nat.add_sub_cancel_left, add_mul, hpow, Nat.add_mod_left, Nat.mod_eq_of_lt hdl]
    refine ⟨_, _, rfl, by omega, Nat.mod_lt _ (by norm_num), .inr (.inr (.inl ⟨p, hp, hp1, hp2, rfl, hmod⟩))⟩
  · exact ⟨_, _, rfl, by omega, by omega, .inr (.inr (.inr ⟨by omega, by omega, rfl, rfl⟩))⟩

end Sys2Proof.Machine
end

