-- ==== Sys2Proof/Laws/Numerics.lean ====
section
/-! SUPPORT. Round-to-nearest-even on a grid, reduced to integers: a grid point counted in units of the format's smallest step,
the distance to the next point, and the one lemma that turns `Format.rne` into `roundTiesEven`. -/

namespace Sys2Proof

open Machine

namespace Format

/-- A point with the given fields, counted in units of the format's smallest positive value. -/
def units (f : Format) (e m : Nat) : Nat := if e = 0 then m else (2 ^ f.manBits + m) * 2 ^ (e - 1)

/-- The smallest positive value of the format, `2^(1 - bias - manBits)`. -/
def ulp (f : Format) : ℚ := 2 ^ ((1 : ℤ) - f.bias - f.manBits)

theorem ulp_pos (f : Format) : 0 < f.ulp := by unfold ulp; positivity

theorem ordinary_eq_units (f : Format) (e m : Nat) : f.ordinary e m = f.units e m * f.ulp := by
  have h2 : (2 : ℚ) ≠ 0 := by norm_num
  unfold ordinary units ulp
  split
  · rw [zpow_sub₀ h2 ((1 : ℤ) - f.bias), zpow_natCast]; ring
  · next h =>
    obtain ⟨k, rfl⟩ := Nat.exists_eq_succ_of_ne_zero h
    have : ((k.succ : ℤ) - f.bias) = k + ((1 : ℤ) - f.bias - f.manBits) + f.manBits := by push_cast; ring
    rw [this, zpow_add₀ h2, zpow_add₀ h2, zpow_natCast, zpow_natCast]
    push_cast
    field_simp

/-- The grid point of a pattern, counted in units. -/
def gridUnits (f : Format) (p : Nat) : Nat := f.units (p / 2 ^ f.manBits) (p % 2 ^ f.manBits)

theorem gridPoint_eq_gridUnits (f : Format) (p : Nat) : f.gridPoint p = f.gridUnits p * f.ulp :=
  ordinary_eq_units _ _ _

/-- The next grid point lies one unit of the pattern's binade further on. -/
theorem gridUnits_succ (f : Format) (p : Nat) :
    f.gridUnits (p + 1) = f.gridUnits p + 2 ^ (p / 2 ^ f.manBits - 1) := by
  unfold gridUnits units
  have hpos : 0 < 2 ^ f.manBits := by positivity
  generalize 2 ^ f.manBits = M at hpos ⊢
  have hdm := Nat.div_add_mod p M
  have hlt := Nat.mod_lt p hpos
  generalize p / M = e at *
  generalize p % M = m at *
  subst hdm
  by_cases hm : m + 1 < M
  · have h1 : (M * e + m + 1) / M = e := by
      rw [Nat.add_assoc, Nat.mul_add_div hpos, Nat.div_eq_of_lt hm, Nat.add_zero]
    have h2 : (M * e + m + 1) % M = m + 1 := by
      rw [Nat.add_assoc, Nat.mul_add_mod, Nat.mod_eq_of_lt hm]
    rw [h1, h2]
    rcases e with _ | e
    · simp
    · simp; ring
  · have hm' : m + 1 = M := by omega
    have h0 : M * e + m + 1 = M * (e + 1) := by rw [Nat.add_assoc, hm']; ring
    rw [h0, Nat.mul_div_cancel_left _ hpos, Nat.mul_mod_right]
    rcases e with _ | e
    · simp; omega
    · simp
      rw [pow_succ, ← hm']; ring

theorem gridUnits_strictMono (f : Format) : StrictMono f.gridUnits :=
  strictMono_nat_of_lt_succ fun p => by
    rw [gridUnits_succ]
    exact Nat.lt_add_of_pos_right (by positivity)

theorem gridPoint_strictMono (f : Format) : StrictMono f.gridPoint := fun p q h => by
  rw [gridPoint_eq_gridUnits, gridPoint_eq_gridUnits]
  have := f.gridUnits_strictMono h
  have := f.ulp_pos
  gcongr

/-- `floorPattern` finds the pattern whose interval holds `x`. -/
theorem floorPattern_eq (f : Format) {x : ℚ} {lo n : Nat} (hn : lo ≤ n) (h1 : f.gridPoint lo ≤ x)
    (h2 : x < f.gridPoint (lo + 1)) : f.floorPattern x n = lo := by
  induction n with
  | zero => simp only [floorPattern]; omega
  | succ n ih =>
    rw [floorPattern]
    by_cases h : lo = n + 1
    · subst h; rw [if_pos h1]
    · have hle : lo + 1 ≤ n + 1 := by omega
      rw [if_neg (not_le.mpr (lt_of_lt_of_le h2 (f.gridPoint_strictMono.monotone hle)))]
      exact ih (by omega)

/-- `floorPattern` stops at the bound when `x` is not below its point. -/
theorem floorPattern_top (f : Format) {x : ℚ} {n : Nat} (h : f.gridPoint n ≤ x) : f.floorPattern x n = n := by
  cases n with
  | zero => rfl
  | succ n => rw [floorPattern, if_pos h]

/-- Rounding inside an interval of the grid: `r` of `2 * half` parts of the way from the point of `lo` to the next. -/
theorem rne_eq_roundTiesEven (f : Format) {x δ : ℚ} {lo r half : Nat} (hδ : 0 < δ) (hlo : lo < f.infPattern)
    (hx : x = f.gridPoint lo + r * δ) (hnext : f.gridPoint (lo + 1) = f.gridPoint lo + 2 * half * δ)
    (hr : r < 2 * half) : f.rne x = roundTiesEven lo r half := by
  have hrq : (r : ℚ) < 2 * half := by exact_mod_cast hr
  have hfl : f.floorPattern x f.infPattern = lo := by
    apply f.floorPattern_eq hlo.le
    · rw [hx]; exact le_add_of_nonneg_right (by positivity)
    · rw [hx, hnext]; gcongr
  have key : ∀ c : ℤ, x - f.gridPoint lo - (f.gridPoint (lo + 1) - x) = (2 * (r : ℤ) - 2 * half : ℤ) * δ := by
    intro _; rw [hx, hnext]; push_cast; ring
  have hlt : x - f.gridPoint lo < f.gridPoint (lo + 1) - x ↔ r < half := by
    rw [← sub_neg, key 0, mul_neg_iff]
    constructor
    · rintro (⟨_, h⟩ | ⟨h, _⟩)
      · exact absurd hδ (not_lt.mpr h.le)
      · have : (2 * (r : ℤ) - 2 * half) < 0 := by exact_mod_cast h
        omega
    · intro h
      exact .inr ⟨by exact_mod_cast (by omega : (2 * (r : ℤ) - 2 * half) < 0), hδ⟩
  have hgt : f.gridPoint (lo + 1) - x < x - f.gridPoint lo ↔ half < r := by
    rw [← sub_pos, key 0, mul_pos_iff_of_pos_right hδ]
    constructor
    · intro h
      have : 0 < (2 * (r : ℤ) - 2 * half) := by exact_mod_cast h
      omega
    · intro h
      exact_mod_cast (by omega : 0 < (2 * (r : ℤ) - 2 * half))
  have heq : f.gridPoint lo = x ↔ r = 0 := by
    rw [hx]
    constructor
    · intro h
      have : (r : ℚ) * δ = 0 := by linarith
      rcases mul_eq_zero.mp this with h | h
      · exact_mod_cast h
      · exact absurd h hδ.ne'
    · rintro rfl; simp
  simp only [rne, hfl, heq, hlt, gt_iff_lt, hgt, roundTiesEven]
  split_ifs <;> omega

/-- From `Top` on everything rounds to `Top`. -/
theorem rne_top (f : Format) {x : ℚ} (h : f.gridPoint f.infPattern ≤ x) : f.rne x = f.infPattern := by
  simp only [rne, f.floorPattern_top h]
  split_ifs <;> rfl

end Format
end Sys2Proof
end

