-- ==== Sys2Proof/Laws/PerInstr.lean ====
section
/-! SUPPORT. Statements for all instructions, one lemma per constructor. -/

namespace Sys2Proof.Laws.OpCode

/-- The operation is well-formed and is what its own operation code decodes to (30_encoding.md R41, R44). -/
def Statement (i : Instr) : Prop := i.wf = true ∧ decodeOp (encodeOp i) = i

theorem cvtF16F32 : Statement .cvtF16F32 := ⟨rfl, by decide⟩
theorem cvtBf16F32 : Statement .cvtBf16F32 := ⟨rfl, by decide⟩
theorem cvtF32F16 : Statement .cvtF32F16 := ⟨rfl, by decide⟩
theorem cvtF32Bf16 : Statement .cvtF32Bf16 := ⟨rfl, by decide⟩

end Sys2Proof.Laws.OpCode
end

