-- ==== Sys2Proof/Tests/Slice0.lean ====
section
/-! SUPPORT. The model's own tests. Expected results come from 95_test_vectors.md (named by table and row), 30_encoding.md and the
rules, never from the model. The second half holds the witnesses: states and operands that meet the hypotheses of the statements. -/

namespace Sys2Proof.Tests

open Sys2Proof Sys2Proof.Machine

/-- `dst` after one step with the given wrapper inputs, from reset. -/
def dstAfter (op : BitVec 2) (src : Word32) : Option Word32 :=
  match step (State.reset.driveWrapper op src) with
  | .next t    => t.readDst?
  | .fault _   => none
  | .refused _ => none

/-! ### Well-formedness: one ill-formed term for each check -/

theorem test_raw_op_too_wide : RawTransaction.wf ⟨4, 0⟩ = false ∧
    decodeRaw ⟨4, 0⟩ = .error .opTooWide := ⟨by decide, rfl⟩

theorem test_raw_src_too_wide : RawTransaction.wf ⟨0, 2 ^ 32⟩ = false ∧
    decodeRaw ⟨0, 2 ^ 32⟩ = .error .srcTooWide := ⟨by decide, rfl⟩

theorem test_word_too_wide : decodeWord (2 ^ 34) = .error .wordTooWide := rfl

theorem test_line_names_itself : linesWf 0 [⟨.cvtF16F32, .earlier 0⟩] = false := by decide

/-- No operation is ill-formed (R44). -/
theorem test_every_operation_is_well_formed : ∀ i : Instr, i.wf = true := by
  intro i; cases i <;> rfl

/-! ### Decoding: words written out from R41 and R46 (95_test_vectors.md L2.5) -/

theorem test_decode_cvtF16F32 : decodeOp 0b00#2 = .cvtF16F32 ∧
    decodeTransaction 0x0BF800000#34 = ⟨.cvtF16F32, 0xBF800000#32⟩ ∧ decodeTableWord 8 0x00 = some .cvtF16F32 := by decide

theorem test_decode_cvtBf16F32 : decodeOp 0b01#2 = .cvtBf16F32 ∧
    decodeTransaction 0x1BF800000#34 = ⟨.cvtBf16F32, 0xBF800000#32⟩ ∧ decodeTableWord 8 0x01 = some .cvtBf16F32 := by decide

theorem test_decode_cvtF32F16 : decodeOp 0b10#2 = .cvtF32F16 ∧
    decodeTransaction 0x2DEAD3C00#34 = ⟨.cvtF32F16, 0xDEAD3C00#32⟩ ∧ decodeTableWord 8 0x02 = some .cvtF32F16 := by decide

theorem test_decode_cvtF32Bf16 : decodeOp 0b11#2 = .cvtF32Bf16 ∧
    decodeTransaction 0x3FFFF3FC0#34 = ⟨.cvtF32Bf16, 0xFFFF3FC0#32⟩ ∧ decodeTableWord 8 0x03 = some .cvtF32Bf16 := by decide

/-! ### Values -/

/-- R53, R51: the payload of a bfloat16 NaN is that of `{b, 16'h0000}`. -/
theorem test_bfloat_nan_value : valueBf16 0x7FC0#16 = .nan 0#1 0x400000 ∧ value32 0x7FC00000#32 = .nan 0#1 0x400000 := ⟨rfl, rfl⟩

/-! ### One step of each operation -/

/-- L2.1: ties, the carry into infinity, the subnormal branch, a NaN with sign. -/
theorem test_cvtF16F32_rounds : dstAfter 0b00#2 0x3F803000#32 = some 0x00003C02#32 ∧
    dstAfter 0b00#2 0x3F801000#32 = some 0x00003C00#32 ∧ dstAfter 0b00#2 0x477FEFFF#32 = some 0x00007BFF#32 ∧
    dstAfter 0b00#2 0x477FF000#32 = some 0x00007C00#32 ∧ dstAfter 0b00#2 0x42F6E979#32 = some 0x000057B7#32 := by decide

/-- L2.1: subnormal results, their ties, and the special patterns. -/
theorem test_cvtF16F32_corners : dstAfter 0b00#2 0x33000000#32 = some 0x00000000#32 ∧
    dstAfter 0b00#2 0x33000001#32 = some 0x00000001#32 ∧ dstAfter 0b00#2 0x34200000#32 = some 0x00000002#32 ∧
    dstAfter 0b00#2 0x387FFFFF#32 = some 0x00000400#32 ∧ dstAfter 0b00#2 0xFFFFFFFF#32 = some 0x0000FE00#32 ∧
    dstAfter 0b00#2 0x80000001#32 = some 0x00008000#32 := by decide

/-- L2.3: ties, carry into the exponent, overflow. -/
theorem test_cvtBf16F32_rounds : dstAfter 0b01#2 0x3F808000#32 = some 0x00003F80#32 ∧
    dstAfter 0b01#2 0x3F818000#32 = some 0x00003F82#32 ∧ dstAfter 0b01#2 0xBF7FFFFF#32 = some 0x0000BF80#32 ∧
    dstAfter 0b01#2 0x7F7F7FFF#32 = some 0x00007F7F#32 ∧ dstAfter 0b01#2 0x7F7F8000#32 = some 0x00007F80#32 := by decide

/-- L2.3: NaNs by sign, a NaN the bare addition would make infinite, and the largest subnormal. -/
theorem test_cvtBf16F32_corners : dstAfter 0b01#2 0x7F800001#32 = some 0x00007FC0#32 ∧
    dstAfter 0b01#2 0xFFC12345#32 = some 0x0000FFC0#32 ∧ dstAfter 0b01#2 0xFF800000#32 = some 0x0000FF80#32 ∧
    dstAfter 0b01#2 0x807FFFFF#32 = some 0x00008080#32 := by decide

/-- L2.2 and L2.5: normal values, and the upper half of `src` ignored. -/
theorem test_cvtF32F16_normal : dstAfter 0b10#2 0xDEAD3C00#32 = some 0x3F800000#32 ∧
    dstAfter 0b10#2 0x0000FBFF#32 = some 0xC77FE000#32 ∧ dstAfter 0b10#2 0x00002E66#32 = some 0x3DCCC000#32 := by decide

/-- L2.2: subnormals by the place of the leading 1, infinity, and a signaling NaN that stays signaling. -/
theorem test_cvtF32F16_corners : dstAfter 0b10#2 0x00000001#32 = some 0x33800000#32 ∧
    dstAfter 0b10#2 0x00000155#32 = some 0x37AA8000#32 ∧ dstAfter 0b10#2 0x000003FF#32 = some 0x387FC000#32 ∧
    dstAfter 0b10#2 0x0000FC00#32 = some 0xFF800000#32 ∧ dstAfter 0b10#2 0x00007DFF#32 = some 0x7FBFE000#32 := by decide

/-- L2.4 and L2.5. -/
theorem test_cvtF32Bf16 : dstAfter 0b11#2 0xFFFF3FC0#32 = some 0x3FC00000#32 ∧
    dstAfter 0b11#2 0x00000001#32 = some 0x00010000#32 ∧ dstAfter 0b11#2 0x00007F81#32 = some 0x7F810000#32 ∧
    dstAfter 0b11#2 0x0000FFFF#32 = some 0xFFFF0000#32 := by decide

/-- An output that has not settled for its held input is not read (R101). -/
theorem test_unsettled_output_is_not_read :
    (State.reset.driveWrapper 0b00#2 0x3F800000#32).readDst? = none := by decide

/-- 95_test_vectors.md P1, its first line. -/
theorem test_program_line :
    (runLine [] ⟨.cvtF16F32, .literal 0x3EAAAAAB#32⟩ State.reset).map (·.1) = some 0x00003555#32 := by decide

/-- A line that names a destination no earlier line has given stands for nothing. -/
theorem test_program_line_without_source :
    (runLine [] ⟨.cvtF32F16, .earlier 0⟩ State.reset).map (·.1) = none := by decide

/-! ### Witnesses: the hypotheses of the statements are met -/

/-- Reset is a fixed point of the step: a state from which, and to which, a step goes. -/
theorem witness_step : step State.reset = .next State.reset := by
  rw [step_eq]
  exact congrArg _ (by decide)

/-- The shortest word that has both bits, and one whose other bits are all set. -/
theorem witness_table_word : decodeTableWord 8 2 = some .cvtF32F16 ∧ 2 ≤ 8 ∧
    decodeTableWord 2 0xFD = some .cvtBf16F32 ∧ 0xFD % 4 = (encodeOp .cvtBf16F32).toNat := by decide

theorem witness_exec : exec .cvtF16F32 State.reset = .next State.reset := by
  rw [exec_eq]
  exact congrArg _ (by decide)

/-- Two different states that agree on one input and on no other. -/
theorem witness_same_op_and_src : (State.reset.driveF32ToF16 1#32).op = State.reset.op ∧
    (State.reset.driveF32ToF16 1#32).src = State.reset.src ∧
    (State.reset.driveF32ToF16 1#32).f32ToF16Unit.f32In ≠ State.reset.f32ToF16Unit.f32In := by decide

theorem witness_same_unit_inputs :
    (State.reset.driveWrapper 1#2 1#32).f32ToF16Unit.f32In = State.reset.f32ToF16Unit.f32In ∧
    (State.reset.driveWrapper 1#2 1#32).f32ToBf16Unit.f32In = State.reset.f32ToBf16Unit.f32In ∧
    (State.reset.driveWrapper 1#2 1#32).f16ToF32Unit.f16In = State.reset.f16ToF32Unit.f16In ∧
    (State.reset.driveWrapper 1#2 1#32).bf16ToF32Unit.bf16In = State.reset.bf16ToF32Unit.bf16In := by decide

theorem witness_op_values : (State.reset.driveWrapper 0b00#2 1#32).op = 0b00#2 ∧ (State.reset.driveWrapper 0b01#2 1#32).op = 0b01#2 ∧
    (State.reset.driveWrapper 0b10#2 1#32).op = 0b10#2 ∧ (State.reset.driveWrapper 0b11#2 1#32).op = 0b11#2 := by decide

theorem witness_block_at : ([State.reset, State.reset] : Blocks)[1]? = some State.reset ∧
    step State.reset = .next State.reset := ⟨rfl, witness_step⟩

/-- 95_test_vectors.md P1's shape: a literal, then the result before it; and a line that names itself. -/
theorem witness_programs : linesWf ([] : List Word32).length [⟨.cvtF16F32, .literal 0x3EAAAAAB#32⟩, ⟨.cvtF32F16, .earlier 0⟩] = true ∧
    linesWf ([] : List Word32).length [⟨.cvtF16F32, .earlier 0⟩] = false := by decide

theorem witness_blocks : (∃ cs, stepAt 1 [State.reset, State.reset] = .next cs) ∧ (0 : Nat) ≠ 1 ∧ [0, 1].Perm [1, 0] := by
  refine ⟨?_, by decide, by decide⟩
  rcases stepAt_cases 1 [State.reset, State.reset] with ⟨_, h⟩ | ⟨_, _, h⟩ <;> exact ⟨_, h⟩

/-- R63, R73: the least NaN, the largest, infinity, and both signs. -/
theorem witness_nan_and_infinity : 0x7F800000 < mag32 0x7F800001#32 ∧ 0x7F800000 < mag32 0xFFFFFFFF#32 ∧
    mag32 0xFF800000#32 = 0x7F800000 ∧
    (fields32 0x7F800001#32).e = 255 ∧ (fields32 0x7F800001#32).m ≠ 0 ∧ (0x7F800001#32 : Word32).extractLsb' 31 1 = 0#1 ∧
    (fields32 0xFFFFFFFF#32).e = 255 ∧ (fields32 0xFFFFFFFF#32).m ≠ 0 ∧ (0xFFFFFFFF#32 : Word32).extractLsb' 31 1 = 1#1 ∧
    class32 0xFFFFFFFF#32 = .nan ∧ class32 0xFF800000#32 = .infinity := by decide

/-- R64, R57: both ends of the carry range, the first pattern above it, and the first below. -/
theorem witness_half_overflow : Finite32 0x477FF000#32 ∧ 0x477FF000 ≤ mag32 0x477FF000#32 ∧ mag32 0x477FFFFF#32 < 0x47800000 ∧
    0x47800000 ≤ mag32 0x47800000#32 ∧ Finite32 0x477FEFFF#32 ∧ ¬0x477FF000 ≤ mag32 0x477FEFFF#32 := by decide

/-- R65: the bound of the subnormal range, and zero. -/
theorem witness_half_subnormal : mag32 0x387FFFFF#32 < 0x38800000 ∧ mag32 0x80000000#32 < 0x38800000 := by decide

/-- R64, R66: both ends of the range of thresholds. -/
theorem witness_reference_threshold : 0x477FF000 ≤ refThreshold.toNat ∧ refThreshold.toNat ≤ 0x47800000 ∧
    0x477FF000 ≤ (0x477FF000#32 : Word32).toNat ∧ (0x477FF000#32 : Word32).toNat ≤ 0x47800000 := by decide

/-- R68, R69, R71: a signaling NaN, infinity, the least and largest subnormal with its leading 1, and zero. -/
theorem witness_half_operands : (fields16 0x7C01#16).e = 31 ∧ class16 0x7C01#16 = .nan ∧ (fields16 0xFC00#16).e = 31 ∧
    class16 0x0001#16 = .subnormal ∧ 2 ^ 0 ≤ (fields16 0x0001#16).m ∧ (fields16 0x0001#16).m < 2 ^ 1 ∧
    class16 0x83FF#16 = .subnormal ∧ 2 ^ 9 ≤ (fields16 0x83FF#16).m ∧ (fields16 0x83FF#16).m < 2 ^ 10 ∧
    class16 0x8000#16 = .zero ∧ class16 0x7C00#16 ≠ .nan := by decide

/-- R74 to R76: the largest non-NaN patterns, the overflow bound, and the ends of the subnormal range. -/
theorem witness_bfloat_narrow : class32 0xFF800000#32 ≠ .nan ∧ class32 0x7F7FFFFF#32 ≠ .nan ∧
    (0x7F7FFFFF#32 : Word32).extractLsb' 31 1 = 0#1 ∧ Finite32 0x7F7F8000#32 ∧ 0x7F7F8000 ≤ mag32 0x7F7F8000#32 ∧
    class32 0x00000001#32 = .subnormal ∧ class32 0x807FFFFF#32 = .subnormal := by decide

/-- R53: a normal, both ends of the subnormals, and NaNs. -/
theorem witness_bfloat_values : classBf16 0x7F7F#16 = .normal ∧ classBf16 0x0080#16 = .normal ∧ classBf16 0x0001#16 = .subnormal ∧
    classBf16 0x807F#16 = .subnormal ∧ classBf16 0x7FC0#16 = .nan ∧ classBf16 0xFF81#16 = .nan := by decide

/-- R78 to R80: a signaling NaN, a pattern that is none, and the last pattern that narrows to a finite result. -/
theorem witness_bfloat_widen : classBf16 0x7F81#16 = .nan ∧ classBf16 0xFF80#16 ≠ .nan ∧
    Finite32 0x7F7F7FFF#32 ∧ classBf16 (f32ToBf16 0x7F7F7FFF#32) ≠ .infinity ∧ bf16ToF32 0x3FC0#16 = bf16ToF32 0x3FC0#16 := by decide

/-- R56: two magnitudes in order, the larger at infinity. -/
theorem witness_monotone : mag32 0x7F7FFFFF#32 ≤ mag32 0x7F800000#32 ∧ class32 0x7F800000#32 ≠ .nan := by decide

/-- R82: each condition arises somewhere. -/
theorem witness_conditions : arises .cvtF16F32 0x7F800001#32 .invalid = true ∧ arises .cvtBf16F32 0x7F800001#32 .invalid = true ∧
    arises .cvtF32F16 0x00007C01#32 .invalid = true ∧ arises .cvtF32Bf16 0x00007F81#32 .invalid = true ∧
    arises .cvtF16F32 0x477FF000#32 .overflow = true ∧ arises .cvtBf16F32 0x7F7F8000#32 .overflow = true ∧
    arises .cvtF16F32 0x387FFFFF#32 .underflow = true ∧ arises .cvtBf16F32 0x00000001#32 .underflow = true ∧
    arises .cvtF16F32 0x3F801000#32 .inexact = true ∧ arises .cvtBf16F32 0xBF800001#32 .inexact = true ∧ Condition.overflow ≠ .invalid := by decide

/-- R55: the last two points of each grid. -/
theorem witness_grid : 0x7BFF < 0x7C00 ∧ 0x7C00 ≤ 0x7C00 ∧ 0x7F7F < 0x7F80 ∧ 0x7F80 ≤ 0x7F80 := by decide

end Sys2Proof.Tests
end

section
/-! What a step and an operation answer, as equations for the state they lead to. -/

namespace Sys2Proof.Machine

/-- The one state an operation can lead to. -/
theorem eq_of_exec_next {i : Instr} {s t : State} (h : exec i s = .next t) : t = { s with dst := convert i s.src } := by
  rw [exec_eq] at h
  exact (Host.Outcome.next.inj h).symm

/-- The one state a step can lead to. -/
theorem eq_of_step_next {s t : State} (h : step s = .next t) :
    t = { s.settleUnits with dst := convert (decodeOp s.op) s.src } := by
  rw [step_eq] at h
  exact (Host.Outcome.next.inj h).symm

end Sys2Proof.Machine
end

section
/-! Classes and values told by the fields, for every format (40_numerics.md R48 to R53). -/

namespace Sys2Proof

@[simp] theorem binary32_maxExp : binary32.maxExp = 255 := by decide
@[simp] theorem binary16_maxExp : binary16.maxExp = 31 := by decide
@[simp] theorem bfloat16_maxExp : bfloat16.maxExp = 255 := by decide
@[simp] theorem binary32_manBits : binary32.manBits = 23 := rfl
@[simp] theorem binary16_manBits : binary16.manBits = 10 := rfl
@[simp] theorem bfloat16_manBits : bfloat16.manBits = 7 := rfl

namespace Format

open Machine

variable (f : Format) (x : Fields)

theorem classOf_eq_nan_iff : f.classOf x = .nan ↔ x.e = f.maxExp ∧ x.m ≠ 0 := by
  unfold classOf
  split_ifs <;> simp_all

theorem classOf_eq_infinity_iff : f.classOf x = .infinity ↔ x.e = f.maxExp ∧ x.m = 0 := by
  unfold classOf
  split_ifs <;> simp_all

variable {f x}

theorem valueOf_nan (he : x.e = f.maxExp) (hm : x.m ≠ 0) : f.valueOf x = .nan x.s x.m := by
  rw [valueOf, (f.classOf_eq_nan_iff x).mpr ⟨he, hm⟩]

theorem valueOf_infinity (he : x.e = f.maxExp) (hm : x.m = 0) : f.valueOf x = .infinity x.s := by
  rw [valueOf, (f.classOf_eq_infinity_iff x).mpr ⟨he, hm⟩]

/-- The formula for ordinary exponents gives every finite value: it is 0 on the fields of a zero. -/
theorem valueOf_finite (he : x.e ≠ f.maxExp) : f.valueOf x = .finite x.s (f.ordinary x.e x.m) := by
  by_cases hz : x.e = 0 ∧ x.m = 0
  · have hc : f.classOf x = .zero := by rw [classOf, if_neg he, if_pos hz.1, if_pos hz.2]
    simp [valueOf, hc, hz, ordinary]
  · have hc : f.classOf x = .subnormal ∨ f.classOf x = .normal := by
      unfold classOf
      split_ifs <;> simp_all
    rcases hc with hc | hc <;> simp [valueOf, hc]

end Format
end Sys2Proof
end

section
/-! Rounding and widening in units of binary32's smallest value: both are then facts about natural numbers. -/

namespace Sys2Proof

open Machine

/-- binary16's smallest value, in units of binary32's. -/
theorem binary16_ulp : binary16.ulp = (2 ^ 125 : Nat) * binary32.ulp := by
  norm_num [Format.ulp, binary16, binary32]

/-- bfloat16's smallest value, in units of binary32's. -/
theorem bfloat16_ulp : bfloat16.ulp = (2 ^ 16 : Nat) * binary32.ulp := by
  norm_num [Format.ulp, bfloat16, binary32]

namespace Format

@[simp] theorem units_zero (f : Format) (m : Nat) : f.units 0 m = m := rfl

@[simp] theorem units_succ (f : Format) (e m : Nat) : f.units (e + 1) m = (2 ^ f.manBits + m) * 2 ^ e := rfl

/-- Rounding a multiple `n` of a unit `u` of which the format's smallest value holds `c`: when `n` lies `r` of `2 * half`
parts, each `d` units long, above the point with the fields `e` and `m`. -/
theorem rne_units (f : Format) {u : ℚ} {c n e m r half d : Nat} (hc : f.ulp = c * u) (hu : 0 < u) (hd : 0 < d)
    (he : e < f.maxExp) (hm : m < 2 ^ f.manBits) (hn : n = f.units e m * c + r * d)
    (hgap : 2 ^ (e - 1) * c = 2 * half * d) (hr : r < 2 * half) :
    f.rne (n * u) = roundTiesEven (e * 2 ^ f.manBits + m) r half := by
  have hpos : 0 < 2 ^ f.manBits := by positivity
  have hdiv : (e * 2 ^ f.manBits + m) / 2 ^ f.manBits = e := by
    rw [mul_comm, Nat.mul_add_div hpos, Nat.div_eq_of_lt hm, add_zero]
  have hmod : (e * 2 ^ f.manBits + m) % 2 ^ f.manBits = m := by
    rw [mul_comm, Nat.mul_add_mod, Nat.mod_eq_of_lt hm]
  have hlo : e * 2 ^ f.manBits + m < f.infPattern :=
    calc e * 2 ^ f.manBits + m < (e + 1) * 2 ^ f.manBits := by rw [add_one_mul]; omega
      _ ≤ f.maxExp * 2 ^ f.manBits := Nat.mul_le_mul_right _ he
  have hpoint : f.gridUnits (e * 2 ^ f.manBits + m) = f.units e m := by rw [gridUnits, hdiv, hmod]
  have hgapq : (2 ^ (e - 1) * c : ℚ) = 2 * half * d := by exact_mod_cast hgap
  refine f.rne_eq_roundTiesEven (δ := d * u) (by positivity) hlo ?_ ?_ hr
  · rw [gridPoint_eq_gridUnits, hpoint, hc, hn]
    push_cast
    ring
  · rw [gridPoint_eq_gridUnits, gridPoint_eq_gridUnits, gridUnits_succ, hpoint, hdiv, hc]
    push_cast
    linear_combination u * hgapq

/-- Fields of two formats give the same value when they count the same units of the first, of which one unit of the second
holds `c`. -/
theorem ordinary_eq_ordinary {f g : Format} {c e m e' m' : Nat} (hc : g.ulp = c * f.ulp)
    (h : f.units e m = g.units e' m' * c) : f.ordinary e m = g.ordinary e' m' := by
  rw [ordinary_eq_units, ordinary_eq_units, hc, h]
  push_cast
  ring

end Format

namespace Machine

theorem abs32_eq_units (a : Word32) :
    abs32 a = binary32.units (fields32 a).e (fields32 a).m * binary32.ulp :=
  binary32.ordinary_eq_units _ _

end Machine
end Sys2Proof
end

section
/-! The fields of a binary32 pattern, and the two rounding meanings told by its magnitude (R48, R62, R72). -/

namespace Sys2Proof.Machine

theorem fields32_e_lt (a : Word32) : (fields32 a).e < 2 ^ 8 := (a.extractLsb' 23 8).isLt
theorem fields32_m_lt (a : Word32) : (fields32 a).m < 2 ^ 23 := (a.extractLsb' 0 23).isLt

/-- The magnitude is the exponent field above the mantissa field. -/
theorem mag32_eq_fields (a : Word32) : mag32 a = (fields32 a).e * 2 ^ 23 + (fields32 a).m := by
  rw [fields32_e, fields32_m]
  omega

theorem fields32_eq_of_mag32 (a : Word32) :
    fields32 a = ⟨a.extractLsb' 31 1, mag32 a / 2 ^ 23, mag32 a % 2 ^ 23⟩ := by
  rw [← fields32_e, ← fields32_m]
  rfl

theorem fields32_pack32 (s : BitVec 1) {e m : Nat} (he : e < 2 ^ 8) (hm : m < 2 ^ 23) :
    fields32 (pack32 s e m) = ⟨s, e, m⟩ := by
  have hdiv : (e * 2 ^ 23 + m) / 2 ^ 23 = e := by omega
  have hmod : (e * 2 ^ 23 + m) % 2 ^ 23 = m := by omega
  rw [fields32_eq_of_mag32, sign_pack32, mag32_pack32 s e m he hm, hdiv, hmod]

theorem class32_nan_iff (a : Word32) : class32 a = .nan ↔ (fields32 a).e = 255 ∧ (fields32 a).m ≠ 0 :=
  binary32.classOf_eq_nan_iff _

theorem class32_infinity_iff (a : Word32) : class32 a = .infinity ↔ (fields32 a).e = 255 ∧ (fields32 a).m = 0 :=
  binary32.classOf_eq_infinity_iff _

/-- A finite pattern is in one of the three classes that the meanings R62 and R72 round. -/
theorem class32_of_finite {a : Word32} (h : Finite32 a) :
    class32 a = .zero ∨ class32 a = .subnormal ∨ class32 a = .normal := by
  cases hc : class32 a with
  | zero => exact .inl rfl
  | subnormal => exact .inr (.inl rfl)
  | normal => exact .inr (.inr rfl)
  | infinity => exact absurd ((class32_infinity_iff a).mp hc).1 h
  | nan => exact absurd ((class32_nan_iff a).mp hc).1 h

theorem halfNearest_finite {a : Word32} (h : Finite32 a) :
    halfNearest a = pack16 (fields32 a).s (binary16.rne (abs32 a)) := by
  rcases class32_of_finite h with hc | hc | hc <;> rw [halfNearest, hc]

theorem bf16Nearest_finite {a : Word32} (h : Finite32 a) :
    bf16Nearest a = pack16 (fields32 a).s (bfloat16.rne (abs32 a)) := by
  rcases class32_of_finite h with hc | hc | hc <;> rw [bf16Nearest, hc]

end Sys2Proof.Machine
end

section
/-! CVT.F16.F32 rounds to nearest even (41_half_codec.md R62): one lemma per range of the exponent field. -/

namespace Sys2Proof.Machine

/-- R62's overflow branch: from 2^16 on, `RNE` is `Top`. -/
theorem rne_binary16_of_big {a : Word32} (h1 : 143 ≤ (fields32 a).e) : binary16.rne (abs32 a) = 0x7C00 := by
  have hunits : 2 ^ 40 * 2 ^ 125 ≤ binary32.units (fields32 a).e (fields32 a).m := by
    rw [Format.units, if_neg (by omega)]
    calc 2 ^ 40 * 2 ^ 125 = 2 ^ 23 * 2 ^ 142 := by norm_num
      _ ≤ (2 ^ 23 + (fields32 a).m) * 2 ^ ((fields32 a).e - 1) :=
        Nat.mul_le_mul (Nat.le_add_right _ _) (Nat.pow_le_pow_right (by norm_num) (by omega))
  refine binary16.rne_top ?_
  have htop : binary16.gridUnits binary16.infPattern = 2 ^ 40 := by decide
  have hulp := binary32.ulp_pos
  rw [Format.gridPoint_eq_gridUnits, htop, binary16_ulp, abs32_eq_units, ← mul_assoc]
  gcongr
  exact_mod_cast hunits

/-- R62's normal branch: 13 mantissa bits are rounded away. -/
theorem rne_binary16_of_normal {a : Word32} (h1 : 113 ≤ (fields32 a).e) (h2 : (fields32 a).e < 143) :
    binary16.rne (abs32 a) = halfMagnitude (fields32 a).e (fields32 a).m := by
  have hm := fields32_m_lt a
  rw [halfMagnitude_normal h1 h2 hm, abs32_eq_units]
  generalize (fields32 a).e = e at *
  generalize (fields32 a).m = m at *
  obtain ⟨k, rfl⟩ := Nat.exists_eq_add_of_le' h1
  refine binary16.rne_units (e := k + 113 - 112) (m := m / 2 ^ 13) (d := 2 ^ (k + 112)) binary16_ulp binary32.ulp_pos
    (by positivity) ?_ ?_ ?_ ?_ (by omega)
  · show k + 113 - 112 < 31
    omega
  · show m / 2 ^ 13 < 2 ^ 10
    omega
  · show (2 ^ 23 + m) * 2 ^ (k + 112) = (2 ^ 10 + m / 2 ^ 13) * 2 ^ k * 2 ^ 125 + m % 2 ^ 13 * 2 ^ (k + 112)
    conv_lhs => rw [← Nat.div_add_mod m (2 ^ 13)]
    ring
  · show 2 ^ k * 2 ^ 125 = 2 * 2 ^ 12 * 2 ^ (k + 112)
    ring

/-- R62's subnormal branch: the significand is counted in multiples of 2^-24. -/
theorem rne_binary16_of_small {a : Word32} (h : (fields32 a).e < 113) :
    binary16.rne (abs32 a) = halfMagnitude (fields32 a).e (fields32 a).m := by
  have hq := half_small_lt h (fields32_m_lt a)
  rw [halfMagnitude_small h, abs32_eq_units]
  generalize (fields32 a).e = e at *
  generalize (fields32 a).m = m at *
  have hunits : binary32.units e m = (if e = 0 then m else 2 ^ 23 + m) * 2 ^ (max e 1 - 1) := by
    cases e <;> simp [binary32]
  generalize (if e = 0 then m else 2 ^ 23 + m) = sig at *
  obtain ⟨j, k, hj, hk, hk'⟩ : ∃ j k, max e 1 - 1 = j ∧ 125 - max e 1 = k ∧ 126 - max e 1 = k + 1 :=
    ⟨_, _, rfl, rfl, by omega⟩
  have hpow : 2 ^ 125 = 2 ^ (k + 1) * 2 ^ j := by rw [← pow_add]; congr 1; omega
  rw [hk'] at hq
  rw [hunits, hj, hk, hk']
  have hround := binary16.rne_units (n := sig * 2 ^ j) (e := 0) (m := sig / 2 ^ (k + 1)) (r := sig % 2 ^ (k + 1))
    (half := 2 ^ k) (d := 2 ^ j) binary16_ulp binary32.ulp_pos (by positivity) (by decide) hq ?_ ?_ ?_
  · rwa [zero_mul, zero_add] at hround
  · rw [Format.units_zero, hpow]
    conv_lhs => rw [← Nat.div_add_mod sig (2 ^ (k + 1))]
    ring
  · rw [hpow]
    ring
  · rw [← pow_succ']
    exact Nat.mod_lt _ (by positivity)

/-- CVT.F16.F32 gives what the "Semantics" clause of R62 says. -/
theorem f32ToF16_eq_halfNearest (a : Word32) : f32ToF16 a = halfNearest a := by
  by_cases hf : Finite32 a
  · rw [f32ToF16, halfNearest_finite hf]
    congr 1
    by_cases h1 : (fields32 a).e < 113
    · exact (rne_binary16_of_small h1).symm
    by_cases h2 : (fields32 a).e < 143
    · exact (rne_binary16_of_normal (not_lt.mp h1) h2).symm
    · rw [rne_binary16_of_big (not_lt.mp h2), halfMagnitude_big (not_lt.mp h2) (absurd · hf)]
  · have he : (fields32 a).e = 255 := not_not.mp hf
    by_cases hm : (fields32 a).m = 0
    · rw [f32ToF16, halfNearest, (class32_infinity_iff a).mpr ⟨he, hm⟩, halfMagnitude_big (by omega) fun _ => hm]
      rfl
    · rw [f32ToF16, halfNearest, (class32_nan_iff a).mpr ⟨he, hm⟩, he, halfMagnitude_nan hm]
      rfl

end Sys2Proof.Machine
end

section
/-! CVT.BF16.F32 rounds to nearest even (42_bfloat16_codec.md R72). -/

namespace Sys2Proof.Machine

/-- The shared rounding step on the magnitude is `RNE`: 16 mantissa bits are rounded away, in every binade. -/
theorem rne_bfloat16_of_finite {a : Word32} (h : Finite32 a) :
    bfloat16.rne (abs32 a) = roundTiesEven (mag32 a / 2 ^ 16) (mag32 a % 2 ^ 16) (2 ^ 15) := by
  have he := fields32_e_lt a
  have hm := fields32_m_lt a
  rw [mag32_eq_fields, abs32_eq_units]
  unfold Finite32 at h
  generalize (fields32 a).e = e at *
  generalize (fields32 a).m = m at *
  have hdiv : (e * 2 ^ 23 + m) / 2 ^ 16 = e * 2 ^ 7 + m / 2 ^ 16 := by omega
  have hmod : (e * 2 ^ 23 + m) % 2 ^ 16 = m % 2 ^ 16 := by omega
  rw [hdiv, hmod]
  refine bfloat16.rne_units (e := e) (m := m / 2 ^ 16) (d := 2 ^ (e - 1)) bfloat16_ulp binary32.ulp_pos
    (by positivity) ?_ ?_ ?_ ?_ (by omega)
  · show e < 255
    omega
  · show m / 2 ^ 16 < 2 ^ 7
    omega
  · cases e with
    | zero =>
      show m = m / 2 ^ 16 * 2 ^ 16 + m % 2 ^ 16 * 1
      omega
    | succ k =>
      show (2 ^ 23 + m) * 2 ^ k = (2 ^ 7 + m / 2 ^ 16) * 2 ^ k * 2 ^ 16 + m % 2 ^ 16 * 2 ^ k
      conv_lhs => rw [← Nat.div_add_mod m (2 ^ 16)]
      ring
  · ring

/-- CVT.BF16.F32 gives what the "Semantics" clause of R72 says. -/
theorem f32ToBf16_eq_bf16Nearest (a : Word32) : f32ToBf16 a = bf16Nearest a := by
  have hlt := fields32_e_lt a
  have hm := fields32_m_lt a
  have hmag := mag32_eq_fields a
  by_cases hf : Finite32 a
  · have hle : mag32 a ≤ 0x7F800000 := by unfold Finite32 at hf; omega
    rw [f32ToBf16_eq_pack hle, bf16Nearest_finite hf, rne_bfloat16_of_finite hf, fields32_s]
  · have he : (fields32 a).e = 255 := not_not.mp hf
    by_cases hm0 : (fields32 a).m = 0
    · rw [f32ToBf16_eq_pack (by omega), bf16Nearest, (class32_infinity_iff a).mpr ⟨he, hm0⟩, hmag, he, hm0]
      rfl
    · rw [f32ToBf16_nan (by omega), bf16Nearest, (class32_nan_iff a).mpr ⟨he, hm0⟩]
      rfl

end Sys2Proof.Machine
end

section
/-! The up-conversions keep the value (41_half_codec.md R67 to R69, 42_bfloat16_codec.md R77, R78). -/

namespace Sys2Proof.Machine

/-- A finite binary16 pattern and the fields of its widening count the same value. -/
theorem value32_pack32_eq_value16 {h : Word16} {e m : Nat} (he : e < 255) (hm : m < 2 ^ 23)
    (hf : (fields16 h).e ≠ 31) (hunits : binary32.units e m = binary16.units (fields16 h).e (fields16 h).m * 2 ^ 125) :
    value32 (pack32 (h.extractLsb' 15 1) e m) = value16 h := by
  rw [value32, value16, fields32_pack32 _ (by omega) hm, Format.valueOf_finite (f := binary32) (ne_of_lt he),
    Format.valueOf_finite (f := binary16) hf, Format.ordinary_eq_ordinary binary16_ulp hunits, fields16_s]

/-- R69 in units: with its leading 1 at `p` moved to bit 23, a subnormal mantissa counts the same value. -/
theorem subnormal_normalised {p m : Nat} (hp : p ≤ 9) (hm : 2 ^ p ≤ m) :
    (2 ^ 23 + (m - 2 ^ p) * 2 ^ (23 - p)) * 2 ^ (p + 102) = m * 2 ^ 125 := by
  obtain ⟨d, rfl⟩ := Nat.exists_eq_add_of_le hm
  obtain ⟨k, hk⟩ : ∃ k, 23 = p + k := ⟨23 - p, by omega⟩
  have hpow : 2 ^ 125 = 2 ^ k * 2 ^ (p + 102) := by rw [← pow_add]; congr 1; omega
  rw [Nat.add_sub_cancel_left, hk, Nat.add_sub_cancel_left, hpow]
  ring

/-- R68: an infinity or NaN keeps its mantissa, moved to the top. -/
theorem f16ToF32_of_exponent_31 {h : Word16} (h31 : (fields16 h).e = 31) :
    f16ToF32 h = pack32 (fields16 h).s 255 ((fields16 h).m * 2 ^ 13) := by
  rw [f16ToF32, if_pos h31, Nat.shiftLeft_eq]

/-- R67, R69: a finite pattern keeps its value. -/
theorem value32_f16ToF32_of_finite {h : Word16} (hf : (fields16 h).e ≠ 31) : value32 (f16ToF32 h) = value16 h := by
  have hfe := fields16_e h
  have hfm := fields16_m h
  obtain ⟨e, m, hy, _, hm, hcases⟩ := f16ToF32_eq_pack h
  rw [hy]
  rcases hcases with ⟨h31, _⟩ | ⟨h0, rfl, rfl⟩ | ⟨p, hp, hle, hlt, rfl, rfl⟩ | ⟨h1, _, rfl, rfl⟩
  · exact absurd (hfe.trans h31) hf
  · refine value32_pack32_eq_value16 (by norm_num) hm hf ?_
    simp [hfe, hfm, h0]
  · have hpow : 2 ^ (p + 1) ≤ 2 ^ 10 := Nat.pow_le_pow_right (by norm_num) (by omega)
    have he0 : (fields16 h).e = 0 := by omega
    have hmag : (fields16 h).m = mag16 h := by omega
    refine value32_pack32_eq_value16 (by omega) hm hf ?_
    rw [he0, hmag, Format.units_zero, Format.units_succ, binary32_manBits]
    exact subnormal_normalised hp hle
  · obtain ⟨k, hk⟩ := Nat.exists_eq_add_of_le' h1
    refine value32_pack32_eq_value16 (by omega) hm hf ?_
    rw [hfe, hfm, hk, Format.units_succ, Format.units_succ, binary32_manBits, binary16_manBits]
    ring

/-- CVT.F32.F16 gives what R67 and R68 say, on every pattern. -/
theorem f16ToF32_widens (h : Word16) : WidensF16 h (f16ToF32 h) := by
  have hnan : class16 h = .nan ↔ (fields16 h).e = 31 ∧ (fields16 h).m ≠ 0 := binary16.classOf_eq_nan_iff _
  have hm : (fields16 h).m * 2 ^ 13 < 2 ^ 23 := by rw [fields16_m]; omega
  rw [WidensF16]
  by_cases h31 : (fields16 h).e = 31
  · rw [f16ToF32_of_exponent_31 h31, value32, fields32_pack32 _ (by norm_num) hm]
    by_cases hm0 : (fields16 h).m = 0
    · rw [if_neg (by simp [hnan, hm0]), value16]
      simp [Format.valueOf_infinity, h31, hm0]
    · rw [if_pos (hnan.mpr ⟨h31, hm0⟩)]
      simp [Format.valueOf_nan, hm0]
  · rw [if_neg (by simp [hnan, h31])]
    exact value32_f16ToF32_of_finite h31

/-- The fields of a widened bfloat16 pattern: the same exponent, and the mantissa at the top. -/
theorem fields32_bf16ToF32 (b : Word16) :
    fields32 (bf16ToF32 b) = ⟨(fieldsBf16 b).s, (fieldsBf16 b).e, (fieldsBf16 b).m * 2 ^ 16⟩ := by
  have hdiv : mag16 b * 2 ^ 16 / 2 ^ 23 = mag16 b / 2 ^ 7 := by omega
  have hmod : mag16 b * 2 ^ 16 % 2 ^ 23 = mag16 b % 2 ^ 7 * 2 ^ 16 := by omega
  rw [fields32_eq_of_mag32, sign_bf16ToF32, mag32_bf16ToF32, hdiv, hmod, fieldsBf16_s, fieldsBf16_e, fieldsBf16_m]

/-- CVT.F32.BF16 gives what R77 and R78 say, on every pattern. -/
theorem bf16ToF32_widens (b : Word16) : WidensBf16 b (bf16ToF32 b) := by
  rw [WidensBf16, value32, valueBf16, fields32_bf16ToF32]
  by_cases h255 : (fieldsBf16 b).e = 255
  · by_cases hm0 : (fieldsBf16 b).m = 0
    · simp [Format.valueOf_infinity, h255, hm0]
    · simp [Format.valueOf_nan, h255, hm0]
  · have hunits : binary32.units (fieldsBf16 b).e ((fieldsBf16 b).m * 2 ^ 16) =
        bfloat16.units (fieldsBf16 b).e (fieldsBf16 b).m * 2 ^ 16 := by
      cases (fieldsBf16 b).e with
      | zero => rfl
      | succ k =>
        simp only [Format.units_succ, binary32_manBits, bfloat16_manBits]
        ring
    simpa [Format.valueOf_finite, h255] using Format.ordinary_eq_ordinary bfloat16_ulp hunits

/-- Every operation gives what the semantics of its rule says. -/
theorem convert_faithful (i : Instr) (src : Word32) : DstFaithful i src (convert i src) := by
  cases i with
  | cvtF16F32 => exact congrArg zext32 (f32ToF16_eq_halfNearest src)
  | cvtBf16F32 => exact congrArg zext32 (f32ToBf16_eq_bf16Nearest src)
  | cvtF32F16 => exact f16ToF32_widens (lowHalf src)
  | cvtF32Bf16 => exact bf16ToF32_widens (lowHalf src)

end Sys2Proof.Machine
end

section
/-! The statements about the state (10_state.md). -/

namespace Sys2Proof.Machine

/-- Settles O11: a step puts each conversion's result on its output port, and each conversion is faithful. -/
theorem everyStepLeavesOutputsFaithful : Obligations.EveryStepLeavesOutputsFaithful := by
  intro s t h
  obtain rfl := eq_of_step_next h
  exact {
    dst := convert_faithful _ _
    f16Out := f32ToF16_eq_halfNearest _
    bf16Out := f32ToBf16_eq_bf16Nearest _
    f16F32 := f16ToF32_widens _
    bf16F32 := bf16ToF32_widens _ }

/-- Settles O9: the state after a step differs in output ports only. -/
theorem stepKeepsTheInputPorts : Obligations.StepKeepsTheInputPorts := by
  intro s t h
  obtain rfl := eq_of_step_next h
  constructor <;> rfl

/-- Settles O10: an operation writes `dst` alone. -/
theorem operationsChangeOnlyDst : Obligations.OperationsChangeOnlyDst := by
  intro i s t h
  obtain rfl := eq_of_exec_next h
  exact ⟨rfl, rfl, rfl, rfl, rfl, rfl⟩

/-- Settles O14: each output after a step is a function of the named input alone. -/
theorem outputsDependOnTheirOwnInputAlone : Obligations.OutputsDependOnTheirOwnInputAlone := by
  intro s s' t t' h h'
  obtain rfl := eq_of_step_next h
  obtain rfl := eq_of_step_next h'
  refine ⟨fun hop hsrc => ?_, congrArg f32ToF16, congrArg f32ToBf16, congrArg f16ToF32, congrArg bf16ToF32⟩
  show convert (decodeOp s.op) s.src = convert (decodeOp s'.op) s'.src
  rw [hop, hsrc]

end Sys2Proof.Machine
end

section
/-! Settling as a function: the state a step answers, and the blocks the settlings at given places answer. -/

namespace Sys2Proof.Machine

/-- The state with every output port at its rule's result for the inputs now held (70_reset_and_hazards.md R101). -/
def State.settled (s : State) : State :=
  { s.settleUnits with dst := convert (decodeOp s.op) s.src }

theorem step_eq_settled (s : State) : step s = .next s.settled := step_eq s

/-- Settling keeps the inputs, so it finds the same results again. -/
theorem State.settled_settled (s : State) : s.settled.settled = s.settled := by
  simp [State.settled]

/-- The settling at place `k` modifies the entry `k` of the list. -/
theorem stepAt_eq_modify (k : Nat) (bs : Blocks) : stepAt k bs = .next (bs.modify k State.settled) := by
  rw [List.modify_eq_set_getElem?]
  rcases stepAt_cases k bs with ⟨hnone, h⟩ | ⟨s, hsome, h⟩
  · rw [h, hnone]
    rfl
  · rw [h, hsome]
    rfl

/-- Settlings at any two places can change places: of the block at `j`, each looks at `j` alone. -/
theorem modify_settled_comm (bs : Blocks) (k l : Nat) :
    (bs.modify k State.settled).modify l State.settled = (bs.modify l State.settled).modify k State.settled := by
  refine List.ext_getElem? fun j => ?_
  simp only [List.getElem?_modify]
  cases bs[j]? with
  | none => rfl
  | some s => by_cases hk : k = j <;> by_cases hl : l = j <;> simp [hk, hl]

/-- The settlings at the places `ks` are the modifications at these places, one after another. -/
theorem stepAll_eq_foldl (ks : List Nat) (bs : Blocks) :
    stepAll ks bs = .next (ks.foldl (fun cs k => cs.modify k State.settled) bs) := by
  induction ks generalizing bs with
  | nil => rfl
  | cons k ks ih => rw [stepAll, stepAt_eq_modify, List.foldl_cons, ← ih]

end Sys2Proof.Machine
end

section
/-! The statements about instances and held inputs (20_memory.md R27, R30). -/

namespace Sys2Proof.Machine

/-- Settles O17: a settling modifies one entry of the list, and such modifications commute. -/
theorem blocksSettleIndependently : Obligations.BlocksSettleIndependently := by
  refine ⟨fun k bs s t hs ht => ?_, fun k bs cs h => ?_, fun ks ls bs hperm => ?_⟩
  · have hst : s.settled = t := Host.Outcome.next.inj ((step_eq_settled s).symm.trans ht)
    rw [stepAt_eq_modify, List.modify_eq_set_getElem?, hs, ← hst]
    rfl
  · obtain rfl : bs.modify k State.settled = cs := Host.Outcome.next.inj ((stepAt_eq_modify k bs).symm.trans h)
    exact ⟨List.length_modify .., fun j hj => List.getElem?_modify_ne _ _ hj.symm⟩
  · rw [stepAll_eq_foldl, stepAll_eq_foldl,
      hperm.foldl_eq' (fun k _ l _ cs => modify_settled_comm cs k l) bs]

/-- Settles O13: a step goes to the settled state, and settling that again changes nothing. -/
theorem outputsStayWhileInputsAreHeld : Obligations.OutputsStayWhileInputsAreHeld := by
  intro s t h
  obtain rfl : t = s.settled := eq_of_step_next h
  rw [step_eq_settled, State.settled_settled]

end Sys2Proof.Machine
end

section
/-! The two halves of a 32-bit port, and the operation codes as a bijection (30_encoding.md R41 to R44). -/

namespace Sys2Proof.Machine

/-- An up-conversion's operand is the lower half of `src`. -/
theorem lowHalf_append (u x : Word16) : lowHalf (u ++ x) = x := BitVec.extractLsb'_append_eq_right

theorem zext32_lower (y : Word16) : (zext32 y).extractLsb' 0 16 = y := by
  rw [zext32_eq_append]
  exact lowHalf_append 0#16 y

theorem zext32_upper (y : Word16) : (zext32 y).extractLsb' 16 16 = 0#16 := by
  rw [zext32_eq_append, BitVec.extractLsb'_append_eq_left]

@[simp] theorem encodeOp_decodeOp (op : BitVec 2) : encodeOp (decodeOp op) = op := by
  revert op
  decide

/-- An `op` value selects an operation exactly when it is that operation's code. -/
theorem decodeOp_eq_iff {op : BitVec 2} {i : Instr} : decodeOp op = i ↔ op = encodeOp i where
  mp h := by rw [← h, encodeOp_decodeOp]
  mpr h := by rw [h, decodeOp_encodeOp]

end Sys2Proof.Machine
end

section
/-! The 34-bit transaction word and the written forms (30_encoding.md R46). -/

namespace Sys2Proof.Machine

theorem decodeTransaction_encodeTransaction (t : Transaction) : decodeTransaction (encodeTransaction t) = t := by
  have hop : (encodeTransaction t).extractLsb' 32 2 = encodeOp t.op := BitVec.extractLsb'_append_eq_left
  have hsrc : (encodeTransaction t).extractLsb' 0 32 = t.src := BitVec.extractLsb'_append_eq_right
  rw [decodeTransaction, hop, hsrc, decodeOp_encodeOp]

/-- The two fields make up the whole word, so nothing of it is lost. -/
theorem encodeTransaction_decodeTransaction (w : BitVec 34) : encodeTransaction (decodeTransaction w) = w := by
  have hfields : w.extractLsb' 32 2 ++ w.extractLsb' 0 32 = w.extractLsb' 0 34 :=
    BitVec.extractLsb'_append_extractLsb'_eq_extractLsb' rfl
  rw [encodeTransaction, decodeTransaction, encodeOp_decodeOp, hfields, BitVec.extractLsb'_eq_self]

theorem encodeTransaction_toNat (t : Transaction) :
    (encodeTransaction t).toNat = (encodeOp t.op).toNat * 2 ^ 32 + t.src.toNat := by
  rw [encodeTransaction, BitVec.toNat_append, ← Nat.shiftLeft_add_eq_or_of_lt t.src.isLt, Nat.shiftLeft_eq]

theorem decodeTransaction_eq_iff {w : BitVec 34} {t : Transaction} :
    decodeTransaction w = t ↔ encodeTransaction t = w where
  mp h := by rw [← h, encodeTransaction_decodeTransaction]
  mpr h := by rw [← h, decodeTransaction_encodeTransaction]

/-- A number is read as a transaction exactly when it has at most 34 bits. -/
theorem decodeWord_eq_ok_iff {n : Nat} {t : Transaction} :
    decodeWord n = .ok t ↔ n < 2 ^ 34 ∧ decodeTransaction (BitVec.ofNat 34 n) = t := by
  unfold decodeWord
  split
  case isTrue h => exact ⟨nofun, fun hok => absurd hok.1 (Nat.not_lt.mpr h)⟩
  case isFalse h => rw [Except.ok.injEq, and_iff_right (Nat.not_le.mp h)]

theorem rawTransaction_wf_iff (r : RawTransaction) : r.wf = true ↔ r.op < 4 ∧ r.src < 2 ^ 32 := by
  simp [RawTransaction.wf]

theorem decodeRaw_of_wf {r : RawTransaction} (h : r.wf = true) :
    decodeRaw r = .ok ⟨decodeOp (BitVec.ofNat 2 r.op), BitVec.ofNat 32 r.src⟩ := by
  obtain ⟨hop, hsrc⟩ := (rawTransaction_wf_iff r).mp h
  rw [decodeRaw, if_neg (Nat.not_le.mpr hop), if_neg (Nat.not_le.mpr hsrc)]

theorem decodeRaw_of_not_wf {r : RawTransaction} (h : r.wf = false) : ∃ e, decodeRaw r = .error e := by
  unfold decodeRaw
  split
  case isTrue => exact ⟨_, rfl⟩
  case isFalse hop =>
    have hsrc : 2 ^ 32 ≤ r.src := by
      by_contra hsrc
      have := (rawTransaction_wf_iff r).mpr ⟨Nat.not_le.mp hop, Nat.not_le.mp hsrc⟩
      simp [h] at this
    exact ⟨_, if_pos hsrc⟩

/-- Settles O3: code and operation are inverse to each other, and the word is its two fields side by side. -/
theorem transactionWordsDecodeAndEncodeAgree : Obligations.TransactionWordsDecodeAndEncodeAgree :=
  ⟨decodeTransaction_encodeTransaction, encodeTransaction_decodeTransaction, encodeTransaction_toNat⟩

/-- Settles O4: a number that fits its port is the number of exactly one port value. -/
theorem writtenNumbersDecodeExactlyWhenTheyFit : Obligations.WrittenNumbersDecodeExactlyWhenTheyFit := by
  refine ⟨fun n t => ?_, fun r t => ?_, fun r => decodeRaw_of_not_wf⟩
  · rw [decodeWord_eq_ok_iff, decodeTransaction_eq_iff, eq_comm (a := n), BitVec.toNat_eq_nat]
  · cases hwf : r.wf with
    | false =>
      obtain ⟨e, he⟩ := decodeRaw_of_not_wf hwf
      simp [he]
    | true =>
      obtain ⟨hop, hsrc⟩ := (rawTransaction_wf_iff r).mp hwf
      obtain ⟨i, src⟩ := t
      rw [decodeRaw_of_wf hwf, Except.ok.injEq, Transaction.mk.injEq, decodeOp_eq_iff, eq_comm (a := r.op),
        eq_comm (a := r.src), BitVec.toNat_eq_nat, BitVec.toNat_eq_nat, and_iff_right rfl, and_iff_right hop,
        and_iff_right hsrc, eq_comm (a := encodeOp i), eq_comm (a := src)]

/-- Settles O2: the four codes are told apart case by case. -/
theorem operationCodesDecodeAndEncodeAgree : Obligations.OperationCodesDecodeAndEncodeAgree :=
  ⟨fun i _ => decodeOp_encodeOp i, encodeOp_decodeOp⟩

/-- Settles O5: each word is the encoding of its transaction. -/
theorem writtenWordsSelectTheirOperations : Obligations.WrittenWordsSelectTheirOperations := by
  unfold Obligations.WrittenWordsSelectTheirOperations
  simp only [decodeTransaction_eq_iff]
  decide

end Sys2Proof.Machine
end

section
/-! The step of the selected operation, and what it leaves on the output ports (30_encoding.md R36 to R43). -/

namespace Sys2Proof.Machine

/-- A settled `dst` is the conversion of `src` by the operation whose code stands on `op`. -/
theorem settled_dst_of_op {s : State} (i : Instr) (h : s.op = encodeOp i) : s.settled.dst = convert i s.src := by
  rw [State.settled, h, decodeOp_encodeOp]

theorem decodeTableWord_eq_some_iff {nbits w : Nat} {i : Instr} :
    decodeTableWord nbits w = some i ↔ decodeOp (tableOp nbits w) = i :=
  Option.some_inj

/-- A table word that has bits 1 and 0 has the operation code there. -/
theorem tableOp_toNat {nbits w : Nat} (h : 2 ≤ nbits) : (tableOp nbits w).toNat = w % 4 := by
  rw [tableOp, BitVec.toNat_ofNat, Nat.mod_mod_of_dvd _ (Nat.pow_dvd_pow 2 h)]

/-- Settles O6: this is the definition of a step. -/
theorem stepRunsTheSelectedOperation : Obligations.StepRunsTheSelectedOperation := fun _ => rfl

/-- Settles O7: the word's code is put on `op`, where the step decodes it. -/
theorem tableWordRunsItsOperation : Obligations.TableWordRunsItsOperation := by
  refine ⟨fun s nbits w i h => ?_, fun nbits w i hnbits => ?_⟩
  · have hop : decodeOp (s.withFetchWord nbits w).op = i := decodeTableWord_eq_some_iff.mp h
    exact ⟨by rw [step, hop], s.withFetchWord_src nbits w, hop⟩
  · rw [decodeTableWord_eq_some_iff, decodeOp_eq_iff, ← BitVec.toNat_inj, tableOp_toNat hnbits]

/-- Settles O1: the settled `dst` is the conversion of the operation with that code. -/
theorem opCodeSelectsTheOperation : Obligations.OpCodeSelectsTheOperation := by
  refine ⟨rfl, rfl, rfl, rfl, fun s => ⟨s.settled, step_eq_settled s, fun h => ?_, fun h => ?_, fun h => ?_, fun h => ?_⟩⟩
  · exact (settled_dst_of_op .cvtF16F32 h).trans (zext32_eq_append _)
  · exact (settled_dst_of_op .cvtBf16F32 h).trans (zext32_eq_append _)
  · exact settled_dst_of_op .cvtF32F16 h
  · exact settled_dst_of_op .cvtF32Bf16 h

/-- Settles O15: the settled state holds each unit's input and its rule's result. -/
theorem unitOutputsFollowTheirRules : Obligations.UnitOutputsFollowTheirRules :=
  fun s => ⟨s.settled, step_eq_settled s, s.settleUnits_f32ToF16Unit, s.settleUnits_f32ToBf16Unit,
    s.settleUnits_f16ToF32Unit, s.settleUnits_bf16ToF32Unit⟩

/-- Settles O37: the operand read is the lower half `x` alone. -/
theorem upConversionsIgnoreTheUpperHalf : Obligations.UpConversionsIgnoreTheUpperHalf := by
  refine fun s u v x => ⟨⟨f16ToF32 x, ?_, ?_⟩, ⟨bf16ToF32 x, ?_, ?_⟩⟩ <;>
    simp only [exec_eq, convert, lowHalf_append]

/-- Settles O38: the result is zero-extended into `dst`. -/
theorem downConversionsClearTheUpperHalf : Obligations.DownConversionsClearTheUpperHalf :=
  fun s => ⟨⟨_, exec_eq .cvtF16F32 s, zext32_lower _, zext32_upper _⟩,
    ⟨_, exec_eq .cvtBf16F32 s, zext32_lower _, zext32_upper _⟩⟩

end Sys2Proof.Machine
end

section
/-! Written programs (30_encoding.md R46): a line runs exactly when its source names something, and so does a list of lines. -/

namespace Sys2Proof.Machine

/-- A source names a value exactly when it is well-formed at the number of the earlier results. -/
theorem sourceValue_isSome (results : List Word32) (src : Source) :
    (sourceValue results src).isSome = src.wf results.length := by
  cases src with
  | literal v => rfl
  | earlier line =>
    rw [Bool.eq_iff_iff]
    simp [sourceValue, Source.wf]

theorem runLine_of_wf {results : List Word32} {l : Line} (s : State) (h : l.source.wf results.length = true) :
    ∃ src t, sourceValue results l.source = some src ∧ runLine results l s = some (convert l.op src, t) := by
  rcases runLine_cases results l s with ⟨hnone, _⟩ | ⟨src, t, hsrc, _, hrun⟩
  · simp [← sourceValue_isSome, hnone] at h
  · exact ⟨src, t, hsrc, hrun⟩

theorem runLine_of_not_wf {results : List Word32} {l : Line} (s : State) (h : l.source.wf results.length = false) :
    runLine results l s = none := by
  rcases runLine_cases results l s with ⟨_, hrun⟩ | ⟨src, t, hsrc, _⟩
  · exact hrun
  · simp [← sourceValue_isSome, hsrc] at h

/-- The lines after a well-formed first line run with its result added to the earlier ones. -/
theorem runLines_cons {results : List Word32} {l : Line} {s t : State} {y : Word32} (ls : List Line)
    (h : runLine results l s = some (y, t)) : runLines results (l :: ls) s = runLines (results ++ [y]) ls t := by
  rw [runLines, h]

/-- `ys` are the results of the lines `ls` after the earlier `results`: each line's operation applied to the value its source
names among the results before it. -/
def AreResults (results : List Word32) (ls : List Line) (ys : List Word32) : Prop :=
  ys.length = ls.length ∧ ∀ (k : Nat) (l : Line), ls[k]? = some l →
    ∃ src : Word32, sourceValue (results ++ ys.take k) l.source = some src ∧ ys[k]? = some (convert l.op src)

theorem areResults_nil (results : List Word32) : AreResults results [] [] := ⟨rfl, nofun⟩

theorem areResults_cons {results ys : List Word32} {l : Line} {ls : List Line} {src : Word32}
    (hsrc : sourceValue results l.source = some src) (h : AreResults (results ++ [convert l.op src]) ls ys) :
    AreResults results (l :: ls) (convert l.op src :: ys) := by
  obtain ⟨hlen, hlines⟩ := h
  refine ⟨congrArg (· + 1) hlen, fun k l' hk => ?_⟩
  cases k with
  | zero =>
    obtain rfl : l = l' := Option.some.inj hk
    exact ⟨src, by rw [List.take_zero, List.append_nil, hsrc], rfl⟩
  | succ k => simpa using hlines k l' hk

theorem runLines_of_wf {results : List Word32} {ls : List Line} (s : State) (h : linesWf results.length ls = true) :
    ∃ ys t, runLines results ls s = some (results ++ ys, t) ∧ AreResults results ls ys := by
  induction ls generalizing results s with
  | nil => exact ⟨[], s, by rw [runLines, List.append_nil], areResults_nil results⟩
  | cons l ls ih =>
    obtain ⟨hl, hls⟩ : l.source.wf results.length = true ∧ linesWf (results.length + 1) ls = true := by
      simpa [linesWf] using h
    obtain ⟨src, t, hsrc, hrun⟩ := runLine_of_wf s hl
    obtain ⟨ys, u, hrest, hys⟩ := ih (results := results ++ [convert l.op src]) t (by simpa using hls)
    refine ⟨convert l.op src :: ys, u, ?_, areResults_cons hsrc hys⟩
    rw [runLines_cons ls hrun, hrest, List.append_assoc, List.singleton_append]

theorem runLines_of_not_wf {results : List Word32} {ls : List Line} (s : State)
    (h : linesWf results.length ls = false) : runLines results ls s = none := by
  induction ls generalizing results s with
  | nil => cases h
  | cons l ls ih =>
    cases hl : l.source.wf results.length with
    | false => rw [runLines, runLine_of_not_wf s hl]
    | true =>
      obtain ⟨src, t, _, hrun⟩ := runLine_of_wf s hl
      rw [runLines_cons ls hrun]
      exact ih t (by simpa [linesWf, hl] using h)

/-- Settles O49: by induction on the lines, each adding its result to the earlier ones. -/
theorem wellFormedProgramsRun : Obligations.WellFormedProgramsRun :=
  fun _ _ s => ⟨runLines_of_wf s, runLines_of_not_wf s⟩

end Sys2Proof.Machine
end

section
/-! Completion (40_numerics.md R61), and the sign of every conversion's result (R58). -/

namespace Sys2Proof.Machine

/-- Settles O8: a step and an operation each have one equation, whose right side is a next state. -/
theorem everyStepAndOperationAnswersNext : Obligations.EveryStepAndOperationAnswersNext :=
  fun s => ⟨⟨_, step_eq s⟩, fun i => ⟨_, exec_eq i s⟩⟩

theorem sign_f32ToF16 (a : Word32) : (f32ToF16 a).extractLsb' 15 1 = a.extractLsb' 31 1 := by
  rw [f32ToF16, sign_pack16, fields32_s]

/-- R73's choice between the two canonical NaNs is the choice of their sign bit. -/
theorem sign_bf16NaN (s : BitVec 1) : (if s = 1#1 then 0xFFC0#16 else 0x7FC0#16 : Word16).extractLsb' 15 1 = s := by
  revert s
  decide

theorem sign_f32ToBf16 (a : Word32) : (f32ToBf16 a).extractLsb' 15 1 = a.extractLsb' 31 1 := by
  by_cases h : mag32 a ≤ 0x7F800000
  · rw [f32ToBf16_eq_pack h, sign_pack16]
  · rw [f32ToBf16_nan (not_le.mp h), sign_bf16NaN]

theorem sign_f16ToF32 (h : Word16) : (f16ToF32 h).extractLsb' 31 1 = h.extractLsb' 15 1 := by
  obtain ⟨e, m, hy, _⟩ := f16ToF32_eq_pack h
  rw [hy, sign_pack32]

/-- Settles O39: each result is put together under the sign of the input. -/
theorem everyConversionKeepsTheSign : Obligations.EveryConversionKeepsTheSign :=
  ⟨sign_f32ToF16, sign_f32ToBf16, sign_f16ToF32, sign_bf16ToF32⟩

end Sys2Proof.Machine
end

section
/-! The classes told by the magnitude pattern (40_numerics.md R48 to R50). -/

namespace Sys2Proof

namespace Format

open Machine

variable {f : Format}

theorem classOf_eq_zero_iff (hf : f.maxExp ≠ 0) (x : Fields) : f.classOf x = .zero ↔ x.e = 0 ∧ x.m = 0 := by
  unfold classOf
  split_ifs <;> simp_all

theorem classOf_eq_subnormal_iff (hf : f.maxExp ≠ 0) (x : Fields) :
    f.classOf x = .subnormal ↔ x.e = 0 ∧ x.m ≠ 0 := by
  unfold classOf
  split_ifs <;> simp_all

theorem classOf_eq_normal_iff (x : Fields) : f.classOf x = .normal ↔ x.e ≠ 0 ∧ x.e ≠ f.maxExp := by
  unfold classOf
  split_ifs <;> simp_all

/-- The classes of a format on the ranges of the magnitude that holds the exponent field above the mantissa field. -/
theorem classOf_iff_magnitude (hf : f.maxExp ≠ 0) {x : Fields} (he : x.e ≤ f.maxExp) (hm : x.m < 2 ^ f.manBits)
    {p : Nat} (hp : p = x.e * 2 ^ f.manBits + x.m) :
    (f.classOf x = .zero ↔ p = 0) ∧
    (f.classOf x = .subnormal ↔ 1 ≤ p ∧ p ≤ 2 ^ f.manBits - 1) ∧
    (f.classOf x = .normal ↔ 2 ^ f.manBits ≤ p ∧ p ≤ f.infPattern - 1) ∧
    (f.classOf x = .infinity ↔ p = f.infPattern) ∧
    (f.classOf x = .nan ↔ f.infPattern < p) := by
  obtain ⟨s, e, m⟩ := x
  dsimp only at he hm hp
  have hzero : e = 0 → e * 2 ^ f.manBits = 0 := fun h => by rw [h, zero_mul]
  have hone : e ≠ 0 → 2 ^ f.manBits ≤ e * 2 ^ f.manBits := fun h => Nat.le_mul_of_pos_left _ (by omega)
  have hinf : e = f.maxExp → e * 2 ^ f.manBits = f.infPattern := fun h => by rw [h, infPattern]
  have hfin : e ≠ f.maxExp → e * 2 ^ f.manBits + 2 ^ f.manBits ≤ f.infPattern := fun h =>
    (add_one_mul e _).symm.trans_le (Nat.mul_le_mul_right _ (by omega))
  rw [classOf_eq_zero_iff hf, classOf_eq_subnormal_iff hf, classOf_eq_normal_iff, classOf_eq_infinity_iff,
    classOf_eq_nan_iff, hp]
  dsimp only
  omega

end Format

namespace Machine

/-- R48's magnitude ranges. -/
theorem class32_iff_magnitude (a : Word32) :
    (class32 a = .zero ↔ mag32 a = 0) ∧
    (class32 a = .subnormal ↔ 0x00000001 ≤ mag32 a ∧ mag32 a ≤ 0x007FFFFF) ∧
    (class32 a = .normal ↔ 0x00800000 ≤ mag32 a ∧ mag32 a ≤ 0x7F7FFFFF) ∧
    (class32 a = .infinity ↔ mag32 a = 0x7F800000) ∧
    (class32 a = .nan ↔ 0x7F800000 < mag32 a) :=
  binary32.classOf_iff_magnitude (by decide) (Nat.le_of_lt_succ (fields32_e_lt a)) (fields32_m_lt a)
    (mag32_eq_fields a)

theorem finite32_iff_mag32 (a : Word32) : Finite32 a ↔ mag32 a < 0x7F800000 := by
  have hlt := mag32_lt a
  rw [Finite32, fields32_e]
  omega

/-- R49's magnitude ranges. -/
theorem class16_iff_magnitude (h : Word16) :
    (class16 h = .zero ↔ mag16 h = 0) ∧
    (class16 h = .subnormal ↔ 0x0001 ≤ mag16 h ∧ mag16 h ≤ 0x03FF) ∧
    (class16 h = .normal ↔ 0x0400 ≤ mag16 h ∧ mag16 h ≤ 0x7BFF) ∧
    (class16 h = .infinity ↔ mag16 h = 0x7C00) ∧
    (class16 h = .nan ↔ 0x7C00 < mag16 h) :=
  binary16.classOf_iff_magnitude (by decide) (Nat.le_of_lt_succ (h.extractLsb' 10 5).isLt) (h.extractLsb' 0 10).isLt
    (by rw [fields16_e, fields16_m, binary16_manBits]; omega)

/-- R50's magnitude ranges. -/
theorem classBf16_iff_magnitude (b : Word16) :
    (classBf16 b = .zero ↔ mag16 b = 0) ∧
    (classBf16 b = .subnormal ↔ 0x0001 ≤ mag16 b ∧ mag16 b ≤ 0x007F) ∧
    (classBf16 b = .normal ↔ 0x0080 ≤ mag16 b ∧ mag16 b ≤ 0x7F7F) ∧
    (classBf16 b = .infinity ↔ mag16 b = 0x7F80) ∧
    (classBf16 b = .nan ↔ 0x7F80 < mag16 b) :=
  bfloat16.classOf_iff_magnitude (by decide) (Nat.le_of_lt_succ (b.extractLsb' 7 8).isLt) (b.extractLsb' 0 7).isLt
    (by rw [fieldsBf16_e, fieldsBf16_m, bfloat16_manBits]; omega)

/-- Settles O44: the ranges of both formats. -/
theorem classesByMagnitude : Obligations.ClassesByMagnitude := ⟨class32_iff_magnitude, class16_iff_magnitude⟩

end Machine
end Sys2Proof
end

section
/-! Values on the grid (40_numerics.md R51 to R55): a finite pattern's value is the grid point of its magnitude. -/

namespace Sys2Proof.Machine

theorem abs32_eq_gridPoint (a : Word32) : abs32 a = binary32.gridPoint (mag32 a) := by
  rw [abs32, fields32_e, fields32_m]
  rfl

theorem value32_of_finite {a : Word32} (h : mag32 a < 0x7F800000) :
    value32 a = .finite (a.extractLsb' 31 1) (binary32.gridPoint (mag32 a)) := by
  have he : (fields32 a).e ≠ binary32.maxExp := (finite32_iff_mag32 a).mpr h
  rw [value32, Format.valueOf_finite he, fields32_s, ← abs32_eq_gridPoint, abs32]

theorem value32_of_infinity {a : Word32} (h : mag32 a = 0x7F800000) : value32 a = .infinity (a.extractLsb' 31 1) := by
  have he : (fields32 a).e = binary32.maxExp := by rw [fields32_e, binary32_maxExp]; omega
  have hm : (fields32 a).m = 0 := by rw [fields32_m]; omega
  rw [value32, Format.valueOf_infinity he hm, fields32_s]

theorem value32_of_nan {a : Word32} (h : 0x7F800000 < mag32 a) :
    value32 a = .nan (a.extractLsb' 31 1) (mag32 a - 0x7F800000) := by
  have hlt := mag32_lt a
  have he : (fields32 a).e = binary32.maxExp := by rw [fields32_e, binary32_maxExp]; omega
  have hm : (fields32 a).m = mag32 a - 0x7F800000 := by rw [fields32_m]; omega
  rw [value32, Format.valueOf_nan he (by omega), fields32_s, hm]

theorem value16_of_finite {h : Word16} (hlt : mag16 h < 0x7C00) :
    value16 h = .finite (h.extractLsb' 15 1) (binary16.gridPoint (mag16 h)) := by
  have he : (fields16 h).e ≠ binary16.maxExp := by rw [fields16_e, binary16_maxExp]; omega
  rw [value16, Format.valueOf_finite he, fields16_s, fields16_e, fields16_m]
  rfl

theorem valueBf16_of_finite {b : Word16} (hlt : mag16 b < 0x7F80) :
    valueBf16 b = .finite (b.extractLsb' 15 1) (bfloat16.gridPoint (mag16 b)) := by
  have he : (fieldsBf16 b).e ≠ bfloat16.maxExp := by rw [fieldsBf16_e, bfloat16_maxExp]; omega
  rw [valueBf16, Format.valueOf_finite he, fieldsBf16_s, fieldsBf16_e, fieldsBf16_m]
  rfl

/-- A positive 16-bit pattern is its magnitude under the sign 0. -/
theorem sign_mag16_ofNat {p : Nat} (h : p < 2 ^ 15) :
    (BitVec.ofNat 16 p).extractLsb' 15 1 = 0#1 ∧ mag16 (BitVec.ofNat 16 p) = p := by
  have hn : (BitVec.ofNat 16 p).toNat = p := by rw [BitVec.toNat_ofNat]; omega
  have hsum := toNat_eq_sign_mag16 (BitVec.ofNat 16 p)
  have hmag := mag16_lt (BitVec.ofNat 16 p)
  refine ⟨BitVec.eq_of_toNat_eq ?_, ?_⟩
  · rw [BitVec.toNat_ofNat]; omega
  · omega

theorem value16_ofNat {p : Nat} (h : p < 0x7C00) : value16 (BitVec.ofNat 16 p) = .finite 0#1 (binary16.gridPoint p) := by
  obtain ⟨hs, hm⟩ := sign_mag16_ofNat (p := p) (by omega)
  rw [value16_of_finite (by omega), hs, hm]

theorem valueBf16_ofNat {p : Nat} (h : p < 0x7F80) :
    valueBf16 (BitVec.ofNat 16 p) = .finite 0#1 (bfloat16.gridPoint p) := by
  obtain ⟨hs, hm⟩ := sign_mag16_ofNat (p := p) (by omega)
  rw [valueBf16_of_finite (by omega), hs, hm]

/-- R55: `Top(binary16)` is 65536. -/
theorem binary16_top : binary16.gridPoint 0x7C00 = 65536 := by
  norm_num [Format.gridPoint, Format.ordinary, binary16]

/-- R55: `Top(bfloat16)` is 2^128. -/
theorem bfloat16_top : bfloat16.gridPoint 0x7F80 = 2 ^ 128 := by
  norm_num [Format.gridPoint, Format.ordinary, bfloat16]

/-- R53: the largest finite magnitude of bfloat16. -/
theorem bfloat16_maxFinite : bfloat16.gridPoint 0x7F7F = (2 - 2 ^ (-7 : ℤ)) * 2 ^ (127 : ℤ) := by
  norm_num [Format.gridPoint, Format.ordinary, bfloat16]

/-- Settles O46: a finite pattern's value is its grid point, and a grid is strictly increasing. -/
theorem gridPointsIncrease : Obligations.GridPointsIncrease :=
  ⟨fun _ _ h _ => binary16.gridPoint_strictMono h, fun _ => value16_ofNat, binary16_top,
    fun _ _ h _ => bfloat16.gridPoint_strictMono h, fun _ => valueBf16_ofNat, bfloat16_top⟩

/-- Settles O47: each value is a grid point, worked out from its fields. -/
theorem landmarkValues : Obligations.LandmarkValues := by
  refine ⟨(value16_ofNat (p := 0x3C00) (by norm_num)).trans ?_, (value16_ofNat (p := 0x7BFF) (by norm_num)).trans ?_,
    (value16_ofNat (p := 0x0400) (by norm_num)).trans ?_, (value16_ofNat (p := 0x0001) (by norm_num)).trans ?_,
    (valueBf16_ofNat (p := 0x7F7F) (by norm_num)).trans ?_, (valueBf16_ofNat (p := 0x0001) (by norm_num)).trans ?_⟩ <;>
    norm_num [Format.gridPoint, Format.ordinary, binary16, bfloat16]

/-- R50: a bfloat16 pattern has the class of the binary32 pattern it heads. -/
theorem classBf16_eq_class32 (b : Word16) : classBf16 b = class32 (bf16ToF32 b) := by
  simp [class32, classBf16, Format.classOf, fields32_bf16ToF32]

theorem valueBf16_of_normal {b : Word16} (h : classBf16 b = .normal) :
    valueBf16 b = .finite (b.extractLsb' 15 1)
      (2 ^ (((fieldsBf16 b).e : ℤ) - 127) * (1 + ((fieldsBf16 b).m : ℚ) / 2 ^ 7)) := by
  obtain ⟨h0, hmax⟩ := (Format.classOf_eq_normal_iff _).mp h
  rw [valueBf16, Format.valueOf_finite hmax, Format.ordinary, if_neg h0]
  rfl

theorem valueBf16_of_subnormal {b : Word16} (h : classBf16 b = .subnormal) :
    valueBf16 b = .finite (b.extractLsb' 15 1) ((fieldsBf16 b).m * 2 ^ (-133 : ℤ)) := by
  obtain ⟨h0, -⟩ := (Format.classOf_eq_subnormal_iff (by decide) _).mp h
  have hmax : (fieldsBf16 b).e ≠ bfloat16.maxExp := by rw [h0, bfloat16_maxExp]; decide
  rw [valueBf16, Format.valueOf_finite hmax, Format.ordinary_eq_units, h0, Format.units_zero]
  rfl

theorem valueBf16_of_nan {b : Word16} (h : classBf16 b = .nan) :
    valueBf16 b = .nan (b.extractLsb' 15 1) ((b.extractLsb' 0 7).toNat * 2 ^ 16) := by
  obtain ⟨he, hm⟩ := (Format.classOf_eq_nan_iff _ _).mp h
  rw [valueBf16, Format.valueOf_nan he hm]
  rfl

/-- Settles O45: `{b, 16'h0000}` is the widening of `b`, which keeps fields and value. -/
theorem bfloatIsTheHighHalf : Obligations.BfloatIsTheHighHalf := by
  refine ⟨fun b => ?_, (valueBf16_ofNat (p := 0x7F7F) (by norm_num)).trans (by rw [bfloat16_maxFinite])⟩
  obtain ⟨hzero, hsubnormal, hnormal, hinfinity, hnan⟩ := classBf16_iff_magnitude b
  exact ⟨classBf16_eq_class32 b, (bf16ToF32_widens b).symm, hzero, hsubnormal, hnormal, hinfinity, hnan,
    valueBf16_of_normal, valueBf16_of_subnormal, valueBf16_of_nan⟩

end Sys2Proof.Machine
end

section
/-! The rules' semantics fixes one output (40_numerics.md R61): a binary32 pattern is told by its value. -/

namespace Sys2Proof.Machine

theorem eq_of_sign_mag32 {a b : Word32} (hs : a.extractLsb' 31 1 = b.extractLsb' 31 1) (hm : mag32 a = mag32 b) :
    a = b :=
  BitVec.eq_of_toNat_eq (by rw [toNat_eq_sign_mag32, toNat_eq_sign_mag32 b, hs, hm])

/-- The three forms of a binary32 pattern's value. -/
theorem value32_cases (a : Word32) :
    value32 a = .finite (a.extractLsb' 31 1) (binary32.gridPoint (mag32 a)) ∨
    (mag32 a = 0x7F800000 ∧ value32 a = .infinity (a.extractLsb' 31 1)) ∨
    (0x7F800000 < mag32 a ∧ value32 a = .nan (a.extractLsb' 31 1) (mag32 a - 0x7F800000)) := by
  rcases lt_trichotomy (mag32 a) 0x7F800000 with h | h | h
  · exact .inl (value32_of_finite h)
  · exact .inr (.inl ⟨h, value32_of_infinity h⟩)
  · exact .inr (.inr ⟨h, value32_of_nan h⟩)

theorem value32_injective : Function.Injective value32 := by
  intro a b h
  rcases value32_cases a with ha | ⟨ma, ha⟩ | ⟨ma, ha⟩ <;> rcases value32_cases b with hb | ⟨mb, hb⟩ | ⟨mb, hb⟩ <;>
    simp only [ha, hb, reduceCtorEq, FpValue.finite.injEq, FpValue.infinity.injEq, FpValue.nan.injEq] at h
  · exact eq_of_sign_mag32 h.1 (binary32.gridPoint_strictMono.injective h.2)
  · exact eq_of_sign_mag32 h (ma.trans mb.symm)
  · exact eq_of_sign_mag32 h.1 (by omega)

/-- R67 and R68 name one value for the result. -/
theorem WidensF16.value32_eq {h : Word16} {y z : Word32} (hy : WidensF16 h y) (hz : WidensF16 h z) :
    value32 y = value32 z := by
  unfold WidensF16 at hy hz
  split_ifs at hy hz <;> rw [hy, hz]

theorem dstFaithful_unique {i : Instr} {src y z : Word32} (hy : DstFaithful i src y) (hz : DstFaithful i src z) :
    y = z := by
  cases i with
  | cvtF16F32 => exact Eq.trans hy (Eq.symm hz)
  | cvtBf16F32 => exact Eq.trans hy (Eq.symm hz)
  | cvtF32F16 => exact value32_injective (WidensF16.value32_eq hy hz)
  | cvtF32Bf16 => exact value32_injective (Eq.trans hy (Eq.symm hz))

/-- Settles O41: the conversion's own result is faithful, and any other faithful one has its value. -/
theorem rulesFixExactlyOneOutput : Obligations.RulesFixExactlyOneOutput :=
  fun i src => ⟨convert i src, convert_faithful i src, fun _ hy => dstFaithful_unique hy (convert_faithful i src)⟩

end Sys2Proof.Machine
end

section
/-! Round-to-nearest-even told by the midpoint (40_numerics.md R56): it is monotone, and reaches `Top` from the last midpoint on
(R57). -/

namespace Sys2Proof.Format

variable (f : Format)

/-- Rounding `x` goes up from the grid point of `lo`: above the midpoint to the next one, and on it from an odd pattern. -/
def RoundsUp (x : ℚ) (lo : Nat) : Prop :=
  lo < f.infPattern ∧
    (f.gridPoint lo + f.gridPoint (lo + 1) < 2 * x ∨ f.gridPoint lo + f.gridPoint (lo + 1) = 2 * x ∧ lo % 2 = 1)

variable {f}

theorem RoundsUp.mono {x y : ℚ} {lo : Nat} (h : f.RoundsUp x lo) (hxy : x ≤ y) : f.RoundsUp y lo := by
  obtain ⟨hlt, habove | ⟨htie, hodd⟩⟩ := h
  · exact ⟨hlt, .inl (by linarith)⟩
  · rcases hxy.lt_or_eq with hxy | rfl
    · exact ⟨hlt, .inl (by linarith)⟩
    · exact ⟨hlt, .inr ⟨htie, hodd⟩⟩

variable (f)

theorem floorPattern_le (x : ℚ) (n : Nat) : f.floorPattern x n ≤ n := by
  induction n with
  | zero => exact le_rfl
  | succ n ih =>
    rw [floorPattern]
    split_ifs
    · exact le_rfl
    · exact ih.trans (Nat.le_succ n)

/-- What rounding can give: the grid point at or below `x`, or the next one where it goes up. -/
theorem rne_cases (x : ℚ) :
    (f.RoundsUp x (f.floorPattern x f.infPattern) ∧ f.rne x = f.floorPattern x f.infPattern + 1) ∨
    (¬f.RoundsUp x (f.floorPattern x f.infPattern) ∧ f.rne x = f.floorPattern x f.infPattern) := by
  have hle := f.floorPattern_le x f.infPattern
  have hnext := f.gridPoint_strictMono (Nat.lt_add_one (f.floorPattern x f.infPattern))
  unfold RoundsUp rne
  dsimp only
  generalize f.floorPattern x f.infPattern = lo at *
  split_ifs with hpoint htop hbelow habove heven
  · refine .inr ⟨?_, rfl⟩
    rintro ⟨-, h | ⟨h, -⟩⟩ <;> linarith
  · exact .inr ⟨fun h => h.1.ne htop, rfl⟩
  · refine .inr ⟨?_, rfl⟩
    rintro ⟨-, h | ⟨h, -⟩⟩ <;> linarith
  · exact .inl ⟨⟨by omega, .inl (by linarith)⟩, rfl⟩
  · refine .inr ⟨?_, rfl⟩
    rintro ⟨-, h | ⟨-, h⟩⟩
    · linarith
    · omega
  · exact .inl ⟨⟨by omega, .inr ⟨by linarith, by omega⟩⟩, rfl⟩

theorem rne_le_infPattern (x : ℚ) : f.rne x ≤ f.infPattern := by
  rcases f.rne_cases x with ⟨⟨hlt, _⟩, h⟩ | ⟨_, h⟩ <;> rw [h]
  · exact hlt
  · exact f.floorPattern_le x _

theorem floorPattern_mono {x y : ℚ} (hxy : x ≤ y) (n : Nat) : f.floorPattern x n ≤ f.floorPattern y n := by
  induction n with
  | zero => exact le_rfl
  | succ n ih =>
    rw [floorPattern, floorPattern]
    by_cases hx : f.gridPoint (n + 1) ≤ x
    · rw [if_pos hx, if_pos (hx.trans hxy)]
    · rw [if_neg hx]
      split_ifs
      · exact (f.floorPattern_le x n).trans (Nat.le_succ n)
      · exact ih

theorem rne_mono : Monotone f.rne := by
  intro x y hxy
  have hfloor := f.floorPattern_mono hxy f.infPattern
  rcases f.rne_cases x with ⟨hx, h⟩ | ⟨_, h⟩ <;> rcases f.rne_cases y with ⟨_, h'⟩ | ⟨hy, h'⟩ <;> rw [h, h']
  · omega
  · have hne : f.floorPattern x f.infPattern ≠ f.floorPattern y f.infPattern := fun heq => hy (heq ▸ hx.mono hxy)
    omega
  · omega
  · exact hfloor

variable {f}

theorem rne_gridPoint {p : Nat} (hp : p ≤ f.infPattern) : f.rne (f.gridPoint p) = p := by
  have hnext := f.gridPoint_strictMono (Nat.lt_add_one p)
  simp [rne, f.floorPattern_eq hp le_rfl hnext]

theorem rne_le_of_lt_midpoint {x : ℚ} {k : Nat} (hk : k < f.infPattern)
    (hx : 2 * x < f.gridPoint k + f.gridPoint (k + 1)) : f.rne x ≤ k := by
  have hnext := f.gridPoint_strictMono (Nat.lt_add_one k)
  rcases lt_or_ge x (f.gridPoint k) with hlow | hhigh
  · exact (f.rne_mono hlow.le).trans (rne_gridPoint hk.le).le
  · have hfloor := f.floorPattern_eq hk.le hhigh (by linarith)
    rcases f.rne_cases x with ⟨⟨_, hup⟩, _⟩ | ⟨_, h⟩
    · rw [hfloor] at hup
      rcases hup with hup | ⟨hup, _⟩ <;> linarith
    · rw [h, hfloor]

/-- A tie goes up from an odd pattern. -/
theorem rne_midpoint_of_odd {k : Nat} (hk : k < f.infPattern) (hodd : k % 2 = 1) :
    f.rne ((f.gridPoint k + f.gridPoint (k + 1)) / 2) = k + 1 := by
  have hnext := f.gridPoint_strictMono (Nat.lt_add_one k)
  have hfloor := f.floorPattern_eq (x := (f.gridPoint k + f.gridPoint (k + 1)) / 2) hk.le (by linarith) (by linarith)
  rcases f.rne_cases ((f.gridPoint k + f.gridPoint (k + 1)) / 2) with ⟨_, h⟩ | ⟨hdown, _⟩
  · rw [h, hfloor]
  · rw [hfloor] at hdown
    exact absurd ⟨hk, .inr ⟨by ring, hodd⟩⟩ hdown

/-- R57: `RNE` is `Top` exactly from the last midpoint on. -/
theorem rne_eq_infPattern_iff {x : ℚ} {k : Nat} (hk : f.infPattern = k + 1) (hodd : k % 2 = 1) :
    f.rne x = f.infPattern ↔ f.gridPoint k + f.gridPoint (k + 1) ≤ 2 * x := by
  have hlt : k < f.infPattern := hk ▸ Nat.lt_add_one k
  constructor
  · intro htop
    by_contra! hx
    have := rne_le_of_lt_midpoint hlt hx
    omega
  · intro hx
    have hmid := rne_midpoint_of_odd hlt hodd
    have hle : f.rne ((f.gridPoint k + f.gridPoint (k + 1)) / 2) ≤ f.rne x := f.rne_mono (by linarith)
    have := f.rne_le_infPattern x
    omega

end Sys2Proof.Format
end

section
/-! The down-conversions by the magnitude: overflow (40_numerics.md R57) and order (R56). -/

namespace Sys2Proof.Machine

/-- R57: half a step below 65536. -/
theorem rne_binary16_eq_top_iff (x : ℚ) : binary16.rne x = binary16.infPattern ↔ 65520 ≤ x := by
  have hmid : binary16.gridPoint 0x7BFF + binary16.gridPoint (0x7BFF + 1) = 2 * 65520 := by
    norm_num [Format.gridPoint, Format.ordinary, binary16]
  rw [binary16.rne_eq_infPattern_iff (k := 0x7BFF) (by decide) (by norm_num), hmid]
  constructor <;> intro h <;> linarith

/-- R57: half a step below 2^128. -/
theorem rne_bfloat16_eq_top_iff (x : ℚ) :
    bfloat16.rne x = bfloat16.infPattern ↔ (2 - 2 ^ (-8 : ℤ)) * 2 ^ (127 : ℤ) ≤ x := by
  have hmid : bfloat16.gridPoint 0x7F7F + bfloat16.gridPoint (0x7F7F + 1) =
      2 * ((2 - 2 ^ (-8 : ℤ)) * 2 ^ (127 : ℤ)) := by
    norm_num [Format.gridPoint, Format.ordinary, bfloat16]
  rw [bfloat16.rne_eq_infPattern_iff (k := 0x7F7F) (by decide) (by norm_num), hmid,
    mul_le_mul_iff_of_pos_left (by norm_num)]

theorem gridPoint_le_abs32_iff (p : Nat) (a : Word32) : binary32.gridPoint p ≤ abs32 a ↔ p ≤ mag32 a := by
  rw [abs32_eq_gridPoint]
  exact binary32.gridPoint_strictMono.le_iff_le

theorem binary16_overflow_iff_mag32 (a : Word32) : 65520 ≤ abs32 a ↔ 0x477FF000 ≤ mag32 a := by
  have h : binary32.gridPoint 0x477FF000 = 65520 := by norm_num [Format.gridPoint, Format.ordinary, binary32]
  rw [← h, gridPoint_le_abs32_iff]

theorem bfloat16_overflow_iff_mag32 (a : Word32) :
    (2 - 2 ^ (-8 : ℤ)) * 2 ^ (127 : ℤ) ≤ abs32 a ↔ 0x7F7F8000 ≤ mag32 a := by
  have h : binary32.gridPoint 0x7F7F8000 = (2 - 2 ^ (-8 : ℤ)) * 2 ^ (127 : ℤ) := by
    norm_num [Format.gridPoint, Format.ordinary, binary32]
  rw [← h, gridPoint_le_abs32_iff]

theorem pack16_inj {s : BitVec 1} {p q : Nat} (hp : p < 2 ^ 15) (hq : q < 2 ^ 15) :
    pack16 s p = pack16 s q ↔ p = q where
  mp h := by rw [← mag16_pack16 s p hp, h, mag16_pack16 s q hq]
  mpr h := by rw [h]

/-- A result of rounding fits the 15 bits of a magnitude. -/
theorem rne_lt {f : Format} (hf : f.infPattern < 2 ^ 15) (x : ℚ) : f.rne x < 2 ^ 15 :=
  (f.rne_le_infPattern x).trans_lt hf

theorem rne_binary16_abs32_eq_top_iff (a : Word32) :
    binary16.rne (abs32 a) = binary16.infPattern ↔ 0x477FF000 ≤ mag32 a :=
  (rne_binary16_eq_top_iff _).trans (binary16_overflow_iff_mag32 a)

theorem rne_bfloat16_abs32_eq_top_iff (a : Word32) :
    bfloat16.rne (abs32 a) = bfloat16.infPattern ↔ 0x7F7F8000 ≤ mag32 a :=
  (rne_bfloat16_eq_top_iff _).trans (bfloat16_overflow_iff_mag32 a)

/-- The rounding formula holds for infinity too, whose magnitude pattern counts a value above every midpoint. -/
theorem f32ToF16_eq_pack_rne {a : Word32} (h : mag32 a ≤ 0x7F800000) :
    f32ToF16 a = pack16 (a.extractLsb' 31 1) (binary16.rne (abs32 a)) := by
  rw [f32ToF16_eq_halfNearest]
  rcases h.lt_or_eq with hlt | hinf
  · rw [halfNearest_finite ((finite32_iff_mag32 a).mpr hlt), fields32_s]
  · obtain ⟨-, -, -, hclass, -⟩ := class32_iff_magnitude a
    rw [halfNearest, hclass.mpr hinf, (rne_binary16_abs32_eq_top_iff a).mpr (by omega)]
    rfl

/-- The rounding formula holds for infinity too, whose magnitude pattern counts a value above every midpoint. -/
theorem f32ToBf16_eq_pack_rne {a : Word32} (h : mag32 a ≤ 0x7F800000) :
    f32ToBf16 a = pack16 (a.extractLsb' 31 1) (bfloat16.rne (abs32 a)) := by
  rw [f32ToBf16_eq_bf16Nearest]
  rcases h.lt_or_eq with hlt | hinf
  · rw [bf16Nearest_finite ((finite32_iff_mag32 a).mpr hlt), fields32_s]
  · obtain ⟨-, -, -, hclass, -⟩ := class32_iff_magnitude a
    rw [bf16Nearest, hclass.mpr hinf, (rne_bfloat16_abs32_eq_top_iff a).mpr (by omega)]
    rfl

theorem mag16_f32ToF16 {a : Word32} (h : mag32 a ≤ 0x7F800000) : mag16 (f32ToF16 a) = binary16.rne (abs32 a) := by
  rw [f32ToF16_eq_pack_rne h, mag16_pack16 _ _ (rne_lt (by decide) _)]

theorem mag16_f32ToBf16 {a : Word32} (h : mag32 a ≤ 0x7F800000) : mag16 (f32ToBf16 a) = bfloat16.rne (abs32 a) := by
  rw [f32ToBf16_eq_pack_rne h, mag16_pack16 _ _ (rne_lt (by decide) _)]

/-- Settles O40: the last midpoint is a binary32 value, and the infinity pattern is `Top`'s. -/
theorem overflowThresholds : Obligations.OverflowThresholds := by
  intro a hf
  have hle : mag32 a ≤ 0x7F800000 := ((finite32_iff_mag32 a).mp hf).le
  have h16 := rne_binary16_abs32_eq_top_iff a
  have hbf16 := rne_bfloat16_abs32_eq_top_iff a
  refine ⟨h16, (binary16_overflow_iff_mag32 a).symm, ?_, hbf16, (bfloat16_overflow_iff_mag32 a).symm, ?_⟩
  · rw [f32ToF16_eq_pack_rne hle, ← h16]
    exact pack16_inj (rne_lt (by decide) _) (by decide)
  · rw [f32ToBf16_eq_pack_rne hle, ← hbf16]
    exact pack16_inj (rne_lt (by decide) _) (by decide)

/-- Settles O42: `RNE` is monotone, and the value grows with the magnitude pattern. -/
theorem downConversionsAreMonotone : Obligations.DownConversionsAreMonotone := by
  intro a b hab hnan
  obtain ⟨-, -, -, -, hclass⟩ := class32_iff_magnitude b
  have hb : mag32 b ≤ 0x7F800000 := not_lt.mp (mt hclass.mpr hnan)
  have habs : abs32 a ≤ abs32 b := by rwa [abs32_eq_gridPoint a, gridPoint_le_abs32_iff]
  rw [mag16_f32ToF16 hb, mag16_f32ToF16 (hab.trans hb), mag16_f32ToBf16 hb, mag16_f32ToBf16 (hab.trans hb)]
  exact ⟨binary16.rne_mono habs, bfloat16.rne_mono habs⟩

end Sys2Proof.Machine
end

section
/-! CVT.F16.F32 (41_half_codec.md R62 to R64): its meaning, NaN and infinity, and overflow. -/

namespace Sys2Proof.Machine

/-- Settles O18: the operation and the unit give R62's meaning. -/
theorem cvtF16F32RoundsToNearestEven : Obligations.CvtF16F32RoundsToNearestEven := by
  refine ⟨rfl, fun s => ?_, fun s t h => ?_⟩
  · rw [exec_eq, convert, f32ToF16_eq_halfNearest, zext32_eq_append]
  · obtain rfl := eq_of_step_next h
    exact f32ToF16_eq_halfNearest s.f32ToF16Unit.f32In

/-- R63: a NaN becomes the canonical NaN of its sign. -/
theorem f32ToF16_of_nan {a : Word32} (h : 0x7F800000 < mag32 a) :
    f32ToF16 a = pack16 (a.extractLsb' 31 1) 0x7E00 := by
  obtain ⟨-, -, -, -, hclass⟩ := class32_iff_magnitude a
  rw [f32ToF16_eq_halfNearest, halfNearest, hclass.mpr h, fields32_s]
  rfl

/-- R63, R64: infinity, and every finite magnitude from 65520 on, becomes infinity. -/
theorem f32ToF16_of_overflow {a : Word32} (h : 0x477FF000 ≤ mag32 a) (hn : mag32 a ≤ 0x7F800000) :
    f32ToF16 a = pack16 (a.extractLsb' 31 1) 0x7C00 := by
  rw [f32ToF16_eq_pack_rne hn, (rne_binary16_abs32_eq_top_iff a).mpr h]
  rfl

/-- Settles O19: both magnitude ranges of R63, in `dst`. -/
theorem halfOfNaNAndInfinity : Obligations.HalfOfNaNAndInfinity := by
  intro s
  rw [exec_eq, convert, zext32_eq_append]
  refine ⟨fun hnan => ?_, fun hinf => ?_⟩
  · rw [f32ToF16_of_nan hnan]
    rfl
  · rw [f32ToF16_of_overflow (by omega) hinf.le]
    rfl

/-- No binary32 pattern but a NaN narrows to a NaN. -/
theorem class16_f32ToF16_ne_nan {a : Word32} (h : mag32 a ≤ 0x7F800000) : class16 (f32ToF16 a) ≠ .nan := by
  obtain ⟨-, -, -, -, hclass⟩ := class16_iff_magnitude (f32ToF16 a)
  rw [Ne, hclass, mag16_f32ToF16 h]
  exact not_lt.mpr (binary16.rne_le_infPattern _)

/-- Settles O20: the exponent field and the truncated magnitude are read off the magnitude pattern. -/
theorem halfOverflow : Obligations.HalfOverflow := by
  intro a hf
  have hle : mag32 a ≤ 0x7F800000 := ((finite32_iff_mag32 a).mp hf).le
  refine ⟨fun h => f32ToF16_of_overflow h hle, fun h hlt => ⟨?_, ?_⟩, fun h => ?_, class16_f32ToF16_ne_nan hle⟩
  · rw [fields32_e]
    omega
  · have hm : (fields32 a).m >>> 13 = 0x3FF := by
      rw [fields32_m, Nat.shiftRight_eq_div_pow]
      omega
    rw [hm]
    rfl
  · rw [fields32_e]
    omega

end Sys2Proof.Machine
end

section
/-! Rounding below the smallest normal (40_numerics.md R56), for every format: the grid is the multiples of its smallest
value. -/

namespace Sys2Proof.Format

variable {f : Format}

/-- Up to the smallest normal the grid points are the multiples of the smallest value. -/
theorem gridPoint_of_le {p : Nat} (h : p ≤ 2 ^ f.manBits) : f.gridPoint p = p * f.ulp := by
  rw [gridPoint_eq_gridUnits, gridUnits]
  rcases h.lt_or_eq with hlt | rfl
  · rw [Nat.div_eq_of_lt hlt, Nat.mod_eq_of_lt hlt, units_zero]
  · rw [Nat.div_self (by positivity), Nat.mod_self, units_succ, add_zero, pow_zero, mul_one]

/-- The grid point at or below `x`, below the smallest normal, is the multiple of the smallest value found by division. -/
theorem floorPattern_of_small (hf : f.maxExp ≠ 0) {x : ℚ} (h0 : 0 ≤ x) (hx : x < f.gridPoint (2 ^ f.manBits)) :
    f.floorPattern x f.infPattern < 2 ^ f.manBits ∧ f.floorPattern x f.infPattern * f.ulp ≤ x ∧
      x < (f.floorPattern x f.infPattern + 1) * f.ulp := by
  have hulp := f.ulp_pos
  have htop : 2 ^ f.manBits ≤ f.infPattern := Nat.le_mul_of_pos_left _ (Nat.pos_of_ne_zero hf)
  rw [gridPoint_of_le le_rfl] at hx
  have hlow : ⌊x / f.ulp⌋₊ * f.ulp ≤ x := (le_div_iff₀ hulp).mp (Nat.floor_le (by positivity))
  have hhigh : x < (⌊x / f.ulp⌋₊ + 1) * f.ulp := (div_lt_iff₀ hulp).mp (Nat.lt_floor_add_one _)
  generalize ⌊x / f.ulp⌋₊ = lo at *
  have hlt : lo < 2 ^ f.manBits := by exact_mod_cast lt_of_mul_lt_mul_right (hlow.trans_lt hx) hulp.le
  have hfloor : f.floorPattern x f.infPattern = lo := by
    refine f.floorPattern_eq (by omega) ?_ ?_
    · rwa [gridPoint_of_le hlt.le]
    · rw [gridPoint_of_le hlt]
      exact_mod_cast hhigh
  rw [hfloor]
  exact ⟨hlt, hlow, hhigh⟩

/-- R56 below the smallest normal: the nearest multiple of the smallest value, ties to the even one. -/
theorem rne_nearest_of_small (hf : f.maxExp ≠ 0) {x : ℚ} (h0 : 0 ≤ x) (hx : x < f.gridPoint (2 ^ f.manBits)) :
    f.rne x ≤ 2 ^ f.manBits ∧ |x - f.rne x * f.ulp| ≤ f.ulp / 2 ∧
      (|x - f.rne x * f.ulp| = f.ulp / 2 → f.rne x % 2 = 0) := by
  obtain ⟨hlt, hlow, hhigh⟩ := floorPattern_of_small hf h0 hx
  have hcases := f.rne_cases x
  have htop : 2 ^ f.manBits ≤ f.infPattern := Nat.le_mul_of_pos_left _ (Nat.pos_of_ne_zero hf)
  generalize f.floorPattern x f.infPattern = lo at *
  rw [RoundsUp, gridPoint_of_le hlt.le, gridPoint_of_le hlt] at hcases
  push_cast at hcases
  rcases hcases with ⟨⟨-, hup⟩, hrne⟩ | ⟨hdown, hrne⟩ <;> rw [hrne]
  · push_cast
    rw [abs_of_nonpos (by linarith), neg_sub]
    rcases hup with habove | ⟨hmid, hodd⟩
    · exact ⟨hlt, by linarith, fun htie => by linarith⟩
    · exact ⟨hlt, by linarith, fun _ => by omega⟩
  · rw [abs_of_nonneg (by linarith)]
    obtain ⟨hbelow, heven⟩ := not_or.mp (not_and.mp hdown (hlt.trans_le htop))
    refine ⟨hlt.le, by linarith, fun htie => ?_⟩
    have := not_and.mp heven (by linarith)
    omega

end Sys2Proof.Format
end

section
/-! CVT.F16.F32 below 2^-14 (41_half_codec.md R65). -/

namespace Sys2Proof.Machine

theorem abs32_nonneg (a : Word32) : 0 ≤ abs32 a := by
  have := binary32.ulp_pos
  rw [abs32_eq_units]
  positivity

/-- R52: binary16's smallest value. -/
theorem binary16_ulp_eq : binary16.ulp = 2 ^ (-24 : ℤ) := by norm_num [Format.ulp, binary16]

/-- Settles O21: below 2^-14 binary16's grid is the multiples of 2^-24. -/
theorem halfSubnormalResults : Obligations.HalfSubnormalResults := by
  intro a h
  have hhalf : binary16.ulp / 2 = 2 ^ (-25 : ℤ) := by norm_num [binary16_ulp_eq]
  have hnormal : binary16.gridPoint 0x400 = binary32.gridPoint 0x38800000 := by
    norm_num [Format.gridPoint, Format.ordinary, binary16, binary32]
  have hx : abs32 a < binary16.gridPoint (2 ^ binary16.manBits) := by
    rw [binary16_manBits]
    norm_num only
    rw [hnormal, ← not_le, gridPoint_le_abs32_iff]
    omega
  obtain ⟨hle, hnear, hties⟩ := Format.rne_nearest_of_small (by decide) (abs32_nonneg a) hx
  rw [hhalf, binary16_ulp_eq] at hnear hties
  exact ⟨_, hle, f32ToF16_eq_pack_rne (by omega), hnear, hties⟩

end Sys2Proof.Machine
end

section
/-! CVT.F32.F16 (41_half_codec.md R67 to R69): the value, exponent 31, subnormals and zeros. -/

namespace Sys2Proof.Machine

/-- Settles O23: the operation and the unit give a pattern that widens the operand. -/
theorem cvtF32F16WidensExactly : Obligations.CvtF32F16WidensExactly := by
  refine ⟨rfl, fun s => ⟨_, exec_eq _ s, f16ToF32_widens _⟩, fun s t h => ?_⟩
  obtain rfl := eq_of_step_next h
  exact f16ToF32_widens s.f16ToF32Unit.f16In

/-- The mantissa field of a NaN moved up by 13 places, as the concatenation R68 writes. -/
theorem ofNat_fields16_m_shifted (h : Word16) :
    BitVec.ofNat 23 ((fields16 h).m * 2 ^ 13) = h.extractLsb' 0 10 ++ 0#13 := by
  have hm : (fields16 h).m < 2 ^ 10 := (h.extractLsb' 0 10).isLt
  apply BitVec.eq_of_toNat_eq
  rw [BitVec.toNat_append, BitVec.toNat_ofNat, Nat.mod_eq_of_lt (by omega), Nat.shiftLeft_eq]
  exact (Nat.or_zero _).symm

/-- R54, R68: the quiet bit moves up with the payload. -/
theorem testBit_quiet_shifted (m : Nat) : (m * 2 ^ 13).testBit 22 = m.testBit 9 := by
  rw [Nat.testBit_mul_two_pow, decide_eq_true (by norm_num : 13 ≤ 22), Bool.true_and]

/-- Settles O24: exponent 31 is exponent 255, and the mantissa is moved up. -/
theorem halfNaNAndInfinityWiden : Obligations.HalfNaNAndInfinityWiden := by
  intro h h31
  have hm : (fields16 h).m * 2 ^ 13 < 2 ^ 23 := by rw [fields16_m]; omega
  have hfields : fields32 (f16ToF32 h) = ⟨(fields16 h).s, 255, (fields16 h).m * 2 ^ 13⟩ := by
    rw [f16ToF32_of_exponent_31 h31, fields32_pack32 _ (by norm_num) hm]
  have hclass : binary32.classOf (fields32 (f16ToF32 h)) = binary16.classOf (fields16 h) := by
    simp [Format.classOf, hfields, h31]
  refine ⟨?_, ?_, ?_⟩
  · rw [f16ToF32_of_exponent_31 h31, pack32, ofNat_fields16_m_shifted, fields16_s, BitVec.append_assoc']
    rfl
  · rw [Format.isSignaling, Format.isSignaling, hclass, hfields, binary32_manBits, binary16_manBits]
    exact congrArg (_ && !·) (testBit_quiet_shifted _)
  · rw [Format.isQuiet, Format.isQuiet, hclass, hfields, binary32_manBits, binary16_manBits]
    exact congrArg (_ && ·) (testBit_quiet_shifted _)

/-- The position of the leading 1 is the only one with `2 ^ p ≤ m < 2 ^ (p + 1)`. -/
theorem leading_one_unique {m p q : Nat} (hp : 2 ^ p ≤ m) (hp' : m < 2 ^ (p + 1)) (hq : 2 ^ q ≤ m)
    (hq' : m < 2 ^ (q + 1)) : p = q := by
  have hpq : p < q + 1 := (Nat.pow_lt_pow_iff_right (by norm_num)).mp (hp.trans_lt hq')
  have hqp : q < p + 1 := (Nat.pow_lt_pow_iff_right (by norm_num)).mp (hq.trans_lt hp')
  omega

/-- R69: the fields of a widened subnormal whose leading 1 is at `p`. -/
theorem f16ToF32_of_subnormal {h : Word16} {p : Nat} (h0 : mag16 h < 0x400) (hlo : 2 ^ p ≤ mag16 h)
    (hhi : mag16 h < 2 ^ (p + 1)) :
    p ≤ 9 ∧ (mag16 h - 2 ^ p) * 2 ^ (23 - p) < 2 ^ 23 ∧
      f16ToF32 h = pack32 (h.extractLsb' 15 1) (p + 103) ((mag16 h - 2 ^ p) * 2 ^ (23 - p)) := by
  have hpos : 0 < 2 ^ p := by positivity
  obtain ⟨e, m, hy, _, hm, hcases⟩ := f16ToF32_eq_pack h
  rcases hcases with ⟨h31, _⟩ | ⟨hzero, _⟩ | ⟨q, hq, hqlo, hqhi, rfl, rfl⟩ | ⟨h1, _⟩
  · omega
  · omega
  · obtain rfl := leading_one_unique hlo hhi hqlo hqhi
    exact ⟨hq, hm, hy⟩
  · omega

/-- R69: a zero keeps its sign. -/
theorem f16ToF32_of_zero {h : Word16} (h0 : mag16 h = 0) : f16ToF32 h = pack32 (h.extractLsb' 15 1) 0 0 := by
  have he : (fields16 h).e = 0 := by rw [fields16_e, h0, Nat.zero_div]
  have hm : (fields16 h).m = 0 := by rw [fields16_m, h0, Nat.zero_mod]
  rw [f16ToF32, if_neg (by omega), if_pos ⟨he, hm⟩, fields16_s]

/-- R52: the value of a subnormal, or of a zero, counts multiples of 2^-24. -/
theorem value16_of_small {h : Word16} (h0 : mag16 h < 0x400) :
    value16 h = .finite (h.extractLsb' 15 1) (mag16 h * 2 ^ (-24 : ℤ)) := by
  rw [value16_of_finite (by omega), Format.gridPoint_of_le (f := binary16) h0.le, binary16_ulp_eq]

/-- Settles O25: a subnormal's magnitude pattern is its mantissa field, normalised by R67. -/
theorem halfSubnormalsWiden : Obligations.HalfSubnormalsWiden := by
  refine ⟨fun h p hsub hlo hhi => ?_, fun h hz => ?_⟩
  · obtain ⟨-, hclass, -, -, -⟩ := class16_iff_magnitude h
    have hsmall : mag16 h < 0x400 := by have := (hclass.mp hsub).2; omega
    have hmag : (fields16 h).m = mag16 h := by rw [fields16_m]; omega
    rw [hmag] at hlo hhi ⊢
    obtain ⟨hp, hm, hy⟩ := f16ToF32_of_subnormal hsmall hlo hhi
    have hfields : fields32 (f16ToF32 h) = ⟨h.extractLsb' 15 1, p + 103, (mag16 h - 2 ^ p) * 2 ^ (23 - p)⟩ := by
      rw [hy, fields32_pack32 _ (by omega) hm]
    refine ⟨?_, hfields, ?_⟩
    · rw [class32, Format.classOf_eq_normal_iff, hfields, binary32_maxExp]
      dsimp only
      omega
    · rw [value32_f16ToF32_of_finite (by rw [fields16_e]; omega), value16_of_small hsmall]
  · obtain ⟨hclass, -⟩ := class16_iff_magnitude h
    rw [f16ToF32_of_zero (hclass.mp hz)]
    exact BitVec.append_assoc ..

end Sys2Proof.Machine
end

section
/-! The round trip of the half-precision codec (41_half_codec.md R71). -/

namespace Sys2Proof.Machine

/-- A 16-bit pattern is put together again from its sign and its magnitude. -/
theorem pack16_sign_mag16 (h : Word16) : pack16 (h.extractLsb' 15 1) (mag16 h) = h := by
  apply BitVec.eq_of_toNat_eq
  rw [pack16_toNat, Nat.mod_eq_of_lt (mag16_lt h), ← toNat_eq_sign_mag16]

/-- A widened finite pattern is finite, at the grid point of the narrow pattern. -/
theorem abs32_f16ToF32 {h : Word16} (hf : mag16 h < 0x7C00) :
    mag32 (f16ToF32 h) ≤ 0x7F800000 ∧ abs32 (f16ToF32 h) = binary16.gridPoint (mag16 h) := by
  have hvalue : value32 (f16ToF32 h) = .finite (h.extractLsb' 15 1) (binary16.gridPoint (mag16 h)) := by
    rw [value32_f16ToF32_of_finite (by rw [fields16_e]; omega), value16_of_finite hf]
  rcases lt_or_ge (mag32 (f16ToF32 h)) 0x7F800000 with hlt | hge
  · rw [value32_of_finite hlt, ← abs32_eq_gridPoint] at hvalue
    exact ⟨hlt.le, (FpValue.finite.inj hvalue).2⟩
  · rcases hge.eq_or_lt with hinf | hnan
    · rw [value32_of_infinity hinf.symm] at hvalue
      exact nomatch hvalue
    · rw [value32_of_nan hnan] at hvalue
      exact nomatch hvalue

/-- R68 in the magnitude pattern. -/
theorem mag32_f16ToF32_of_exponent_31 {h : Word16} (hn : 0x7C00 ≤ mag16 h) :
    mag32 (f16ToF32 h) = 0x7F800000 + (mag16 h - 0x7C00) * 2 ^ 13 := by
  have hlt := mag16_lt h
  have h31 : (fields16 h).e = 31 := by rw [fields16_e]; omega
  have hm : (fields16 h).m = mag16 h - 0x7C00 := by rw [fields16_m]; omega
  rw [f16ToF32_of_exponent_31 h31, hm, mag32_pack32 _ _ _ (by norm_num) (by omega)]
  norm_num

/-- Settles O27: a finite pattern is a point of the grid that rounding keeps; infinities and NaNs go by R63. -/
theorem halfRoundTrip : Obligations.HalfRoundTrip := by
  intro h
  obtain ⟨-, -, -, -, hclass⟩ := class16_iff_magnitude h
  rw [Ne, hclass]
  refine ⟨fun hn => ?_, fun hn => ?_⟩
  · rcases (not_lt.mp hn).lt_or_eq with hf | hinf
    · obtain ⟨hle, habs⟩ := abs32_f16ToF32 hf
      rw [f32ToF16_eq_pack_rne hle, habs, Format.rne_gridPoint hf.le, sign_f16ToF32, pack16_sign_mag16]
    · have hmag := mag32_f16ToF32_of_exponent_31 hinf.ge
      rw [f32ToF16_of_overflow (by omega) (by omega), sign_f16ToF32, ← hinf, pack16_sign_mag16]
  · have hmag := mag32_f16ToF32_of_exponent_31 hn.le
    rw [f32ToF16_of_nan (by omega), sign_f16ToF32]
    rfl

end Sys2Proof.Machine
end

section
/-! The adder of the reference algorithms (41_half_codec.md R66, R70): its rounding, by the leading bit of the exact result. -/

namespace Sys2Proof.Machine

/-- Rounding `n` units whose leading 1 is at `k + 23`: `k` bits are rounded away. -/
theorem roundUnits_of_leading_one {n k : Nat} (hk : 1 ≤ k) (hlo : 2 ^ (k + 23) ≤ n) (hhi : n < 2 ^ (k + 24)) :
    roundUnits n = min (k * 2 ^ 23 + roundTiesEven (n / 2 ^ k) (n % 2 ^ k) (2 ^ (k - 1))) 0x7F800000 := by
  have hbig : 2 ^ 24 ≤ n := (Nat.pow_le_pow_right (by norm_num) (by omega)).trans hlo
  have hlog : Nat.log2 n - 23 = k := by
    rw [(Nat.log2_eq_iff (by omega)).mpr ⟨hlo, hhi⟩]
    omega
  rw [roundUnits, if_neg (not_lt.mpr hbig)]
  simp only [hlog, Nat.shiftLeft_eq, Nat.shiftRight_eq_div_pow]

/-- Nothing is rounded away when nothing is left over. -/
theorem roundTiesEven_exact (q : Nat) {half : Nat} (h : 0 < half) : roundTiesEven q 0 half = q := by
  rcases roundTiesEven_cases q 0 half with ⟨h, -⟩ | ⟨-, hup⟩ <;> omega

/-- Rounding the value of a finite pattern gives the pattern. -/
theorem roundUnits_units {e m : Nat} (he : e < 255) (hm : m < 2 ^ 23) :
    roundUnits (binary32.units e m) = e * 2 ^ 23 + m := by
  rcases e with _ | _ | j
  · rw [Format.units_zero, roundUnits, if_pos (by omega)]
    omega
  · rw [Format.units_succ, binary32_manBits, roundUnits, if_pos (by omega)]
    omega
  · have hpow : 0 < 2 ^ (j + 1) := by positivity
    rw [Format.units_succ, binary32_manBits, roundUnits_of_leading_one (k := j + 1) (by omega),
      Nat.mul_div_cancel _ hpow, Nat.mul_mod_left, roundTiesEven_exact _ (by positivity), min_eq_left (by omega)]
    · omega
    · rw [pow_add, mul_comm]
      exact Nat.mul_le_mul_right _ (Nat.le_add_right _ _)
    · rw [pow_add _ (j + 1), mul_comm (2 ^ (j + 1))]
      exact Nat.mul_lt_mul_of_pos_right (by omega) hpow

/-- An operand of the adder counts its value, or 0 where a subnormal is treated as zero. -/
theorem adderUnits_cases (flush : Bool) (u : Word32) :
    adderUnits flush u = binary32.units (fields32 u).e (fields32 u).m ∨
      ((fields32 u).e = 0 ∧ adderUnits flush u = 0) := by
  unfold adderUnits
  by_cases h0 : (fields32 u).e = 0
  · cases flush <;> simp [h0]
  · simp [h0, Format.units]

/-- A normal operand is never treated as zero. -/
theorem adderUnits_normal (flush : Bool) {u : Word32} (h : (fields32 u).e ≠ 0) :
    adderUnits flush u = binary32.units (fields32 u).e (fields32 u).m :=
  (adderUnits_cases flush u).resolve_right fun hzero => h hzero.1

end Sys2Proof.Machine
end

section
/-! The bits the reference algorithms take apart and put together again, in plain arithmetic. -/

namespace Sys2Proof.Machine

/-- Masking `w` bits at position `k`, in arithmetic. -/
theorem and_mask (x w k : Nat) : x &&& (2 ^ w - 1) * 2 ^ k = x / 2 ^ k % 2 ^ w * 2 ^ k := by
  apply Nat.eq_of_testBit_eq
  intro i
  rw [Nat.testBit_and, Nat.testBit_mul_two_pow, Nat.testBit_mul_two_pow, Nat.testBit_two_pow_sub_one,
    Nat.testBit_mod_two_pow, Nat.testBit_div_two_pow]
  by_cases hk : k ≤ i
  · rw [Nat.sub_add_cancel hk]
    simp [hk, Bool.and_comm]
  · simp [hk]

theorem signMask_toNat (a : Word32) : (a &&& 0x80000000#32).toNat = (a.extractLsb' 31 1).toNat * 2 ^ 31 := by
  rw [BitVec.toNat_and, BitVec.extractLsb'_toNat, Nat.shiftRight_eq_div_pow]
  exact and_mask a.toNat 1 31

/-- Without its sign bit a pattern is its magnitude. -/
theorem stripSign_toNat (a : Word32) : (a ^^^ (a &&& 0x80000000#32)).toNat = mag32 a := by
  have hsign : a.toNat / 2 ^ 31 = (a.extractLsb' 31 1).toNat := by
    have := toNat_eq_sign_mag32 a
    have := mag32_lt a
    omega
  have hdiv : (a ^^^ (a &&& 0x80000000#32)).toNat / 2 ^ 31 = 0 := by
    rw [BitVec.toNat_xor, signMask_toNat, Nat.xor_div_two_pow, Nat.mul_div_cancel _ (by positivity), hsign,
      Nat.xor_self]
  have hmod : (a ^^^ (a &&& 0x80000000#32)).toNat % 2 ^ 31 = mag32 a := by
    rw [BitVec.toNat_xor, signMask_toNat, Nat.xor_mod_two_pow, Nat.mul_mod_left, Nat.xor_zero, mag32_eq]
  omega

/-- R66's last line: the sign bit over a 15-bit magnitude. -/
theorem or_sign16 (a : Word32) {p : Word16} (hp : p.toNat < 2 ^ 15) :
    p ||| ((a &&& 0x80000000#32) >>> 16).extractLsb' 0 16 = pack16 (a.extractLsb' 31 1) p.toNat := by
  have hs := (a.extractLsb' 31 1).isLt
  have hsign : (((a &&& 0x80000000#32) >>> 16).extractLsb' 0 16).toNat = (a.extractLsb' 31 1).toNat <<< 15 := by
    rw [BitVec.extractLsb'_toNat, BitVec.toNat_ushiftRight, signMask_toNat, Nat.shiftRight_eq_div_pow,
      Nat.shiftRight_eq_div_pow, Nat.shiftLeft_eq]
    omega
  apply BitVec.eq_of_toNat_eq
  rw [BitVec.toNat_or, hsign, Nat.or_comm, ← Nat.shiftLeft_add_eq_or_of_lt hp, pack16_toNat, Nat.shiftLeft_eq,
    Nat.mod_eq_of_lt hp]

/-- R70's last line: the sign bit over a 31-bit magnitude. -/
theorem or_sign32 (s : BitVec 1) {u : Word32} {e m : Nat} (he : e < 2 ^ 8) (hm : m < 2 ^ 23)
    (hu : u.toNat = e * 2 ^ 23 + m) : u ||| (s.setWidth 32 <<< 31) = pack32 s e m := by
  have hs := s.isLt
  have hsign : (s.setWidth 32 <<< 31 : Word32).toNat = s.toNat <<< 31 := by
    rw [BitVec.toNat_shiftLeft, BitVec.toNat_setWidth, Nat.shiftLeft_eq, Nat.shiftLeft_eq]
    omega
  have hlt : u.toNat < 2 ^ 31 := by omega
  apply BitVec.eq_of_toNat_eq
  rw [BitVec.toNat_or, hsign, Nat.or_comm, ← Nat.shiftLeft_add_eq_or_of_lt hlt, pack32_toNat, Nat.shiftLeft_eq,
    Nat.mod_eq_of_lt he, Nat.mod_eq_of_lt hm, hu]

end Sys2Proof.Machine
end

section
/-! The reference algorithm of CVT.F32.F16 (41_half_codec.md R70): one lemma per branch of its exponent test. -/

namespace Sys2Proof.Machine

/-- R70's first line: the magnitude moved up by 13 places. -/
theorem shiftedMagnitude_toNat (h : Word16) :
    ((h.extractLsb' 0 15).setWidth 32 <<< 13 : Word32).toNat = mag16 h * 2 ^ 13 := by
  have hlt := mag16_lt h
  have hmag : ((h.extractLsb' 0 15).setWidth 32 : Word32).toNat = mag16 h := by
    rw [BitVec.toNat_setWidth, ← mag16]
    omega
  rw [BitVec.toNat_shiftLeft, hmag, Nat.shiftLeft_eq]
  omega

/-- R70's exponent test reads the exponent field of the narrow pattern. -/
theorem exponentMask_eq_iff {u c : Word32} {p e : Nat} (hp : p < 2 ^ 15) (hu : u.toNat = p * 2 ^ 13)
    (hc : c.toNat = e * 2 ^ 23) : u &&& 0x0F800000#32 = c ↔ p / 2 ^ 10 = e := by
  have hmask : (u &&& 0x0F800000#32).toNat = u.toNat / 2 ^ 23 % 2 ^ 5 * 2 ^ 23 := and_mask u.toNat 5 23
  rw [← BitVec.toNat_inj, hmask, hu, hc]
  omega

/-- The subtraction of 2^-14 normalises exactly: the operands are 2^-14 + `p` * 2^-24 and 2^-14. -/
theorem subF32_toNat (flush : Bool) {u : Word32} {p e m : Nat} (hp : p < 2 ^ 10)
    (hu : u.toNat = 0x38800000 + p * 2 ^ 13) (he : e < 255) (hm : m < 2 ^ 23)
    (hunits : binary32.units e m = p * 2 ^ 125) : (subF32 flush u 0x38800000#32).toNat = e * 2 ^ 23 + m := by
  have hmag : mag32 u = 0x38800000 + p * 2 ^ 13 := by rw [mag32_eq, hu]; omega
  have hue : (fields32 u).e = 112 + 1 := by rw [fields32_e, hmag]; omega
  have hum : (fields32 u).m = p * 2 ^ 13 := by rw [fields32_m, hmag]; omega
  have hleft : adderUnits flush u = 2 ^ 135 + p * 2 ^ 125 := by
    rw [adderUnits_normal flush (by omega), hue, hum, Format.units_succ, binary32_manBits]
    ring
  have hright : adderUnits flush 0x38800000#32 = 2 ^ 135 := adderUnits_normal flush (by decide)
  rw [subF32, hleft, hright, Nat.add_sub_cancel_left, ← hunits, roundUnits_units he hm, BitVec.toNat_ofNat]
  omega

/-- R67's zero and subnormal results count the value of the narrow pattern. -/
theorem units_of_small {p e m : Nat} (h : (p = 0 ∧ e = 0 ∧ m = 0) ∨
    ∃ q, q ≤ 9 ∧ 2 ^ q ≤ p ∧ p < 2 ^ (q + 1) ∧ e = q + 103 ∧ m = (p - 2 ^ q) * 2 ^ (23 - q)) :
    p < 2 ^ 10 ∧ binary32.units e m = p * 2 ^ 125 := by
  rcases h with ⟨rfl, rfl, rfl⟩ | ⟨q, hq, hlo, hhi, rfl, rfl⟩
  · exact ⟨by norm_num, rfl⟩
  · exact ⟨hhi.trans_le (Nat.pow_le_pow_right (by norm_num) (by omega)), subnormal_normalised hq hlo⟩

/-- Settles O26: each branch of the exponent test gives the exponent and mantissa fields of R67. -/
theorem wideningReferenceAlgorithmAgrees : Obligations.WideningReferenceAlgorithmAgrees := by
  intro flush h
  have hlt := mag16_lt h
  have hu := shiftedMagnitude_toNat h
  obtain ⟨e, m, hy, he, hm, hcases⟩ := f16ToF32_eq_pack h
  rw [hy, refF16ToF32]
  refine or_sign32 _ he hm ?_
  generalize ((h.extractLsb' 0 15).setWidth 32 <<< 13 : Word32) = u at *
  have hinf : u &&& 0x0F800000#32 = 0x0F800000#32 ↔ mag16 h / 2 ^ 10 = 31 :=
    exponentMask_eq_iff hlt hu (by decide)
  have hzero : u &&& 0x0F800000#32 = 0#32 ↔ mag16 h / 2 ^ 10 = 0 := exponentMask_eq_iff hlt hu (by decide)
  rw [← or_assoc (a := mag16 h = 0 ∧ _)] at hcases
  rcases hcases with ⟨h31, rfl, rfl⟩ | hsmall | ⟨h1, h30, rfl, rfl⟩
  · rw [if_pos (hinf.mpr h31), BitVec.toNat_add, BitVec.toNat_add, BitVec.toNat_ofNat, hu]
    omega
  · obtain ⟨hp, hunits⟩ := units_of_small hsmall
    have he' : e < 255 := by rcases hsmall with ⟨_, rfl, _⟩ | ⟨q, _, _, _, rfl, _⟩ <;> omega
    rw [if_neg (by rw [hinf]; omega), if_pos (hzero.mpr (by omega))]
    refine subF32_toNat flush hp ?_ he' hm hunits
    rw [BitVec.toNat_add, BitVec.toNat_add, BitVec.toNat_ofNat, BitVec.toNat_ofNat, hu]
    omega
  · rw [if_neg (by rw [hinf]; omega), if_neg (by rw [hzero]; omega), BitVec.toNat_add, BitVec.toNat_ofNat, hu]
    omega

end Sys2Proof.Machine
end

section
/-! The reference algorithm of CVT.F16.F32 (41_half_codec.md R66): the addition of 0.5, and the rounding bias. -/

namespace Sys2Proof.Machine

/-- Rounding keeps an even offset of the truncated result apart. -/
theorem roundTiesEven_add_even (q c r half : Nat) :
    roundTiesEven (q + 2 * c) r half = roundTiesEven q r half + 2 * c := by
  rcases roundTiesEven_cases q r half with ⟨h, h'⟩ | ⟨h, h'⟩ <;>
    rcases roundTiesEven_cases (q + 2 * c) r half with ⟨k, k'⟩ | ⟨k, k'⟩ <;> omega

/-- Rounding `n` units of binary32 to multiples of 2^-24, of which each holds 2^125 of them. -/
theorem rne_binary16_of_units {n : Nat} (hn : n < 2 ^ 135) :
    binary16.rne (n * binary32.ulp) = roundTiesEven (n / 2 ^ 125) (n % 2 ^ 125) (2 ^ 124) := by
  have hround := binary16.rne_units (e := 0) (m := n / 2 ^ 125) (r := n % 2 ^ 125) (half := 2 ^ 124) (d := 1) (n := n)
    binary16_ulp binary32.ulp_pos (by norm_num) (by decide) ?_ ?_ (by norm_num) (by omega)
  · rwa [zero_mul, zero_add] at hround
  · rw [binary16_manBits]
    omega
  · rw [Format.units_zero]
    omega

/-- Below 2^-14, what the adder takes for an operand rounds to the same multiple of 2^-24 as its value: a subnormal rounds
to 0 in either case. -/
theorem rne_binary16_adderUnits (flush : Bool) {u : Word32} (h : mag32 u < 0x38800000) :
    adderUnits flush u < 2 ^ 135 ∧ binary16.rne (adderUnits flush u * binary32.ulp) = binary16.rne (abs32 u) := by
  have hlt : binary32.units (fields32 u).e (fields32 u).m < 2 ^ 135 := by
    have hmono := binary32.gridUnits_strictMono h
    have hbound : binary32.gridUnits 0x38800000 = 2 ^ 135 := by decide
    rwa [hbound, Format.gridUnits, binary32_manBits, ← fields32_e, ← fields32_m] at hmono
  rw [abs32_eq_units]
  rcases adderUnits_cases flush u with heq | ⟨h0, hzero⟩
  · rw [heq]
    exact ⟨hlt, rfl⟩
  · have hm := fields32_m_lt u
    have hdown : binary16.rne ((fields32 u).m * binary32.ulp) = 0 := by
      rw [rne_binary16_of_units (by omega), Nat.div_eq_of_lt (by omega), Nat.mod_eq_of_lt (by omega)]
      rcases roundTiesEven_cases 0 (fields32 u).m (2 ^ 124) with ⟨hq, -⟩ | ⟨-, hup⟩
      · exact hq
      · omega
    rw [hzero, h0, Format.units_zero, hdown, rne_binary16_of_units (by norm_num)]
    exact ⟨by norm_num, rfl⟩

/-- The sum with 0.5 is a multiple of 2^-24 above the pattern of 0.5. -/
theorem roundUnits_add_half {n : Nat} (hn : n < 2 ^ 135) :
    roundUnits (n + 2 ^ 148) = 0x3F000000 + binary16.rne (n * binary32.ulp) := by
  have hle := roundTiesEven_le (n / 2 ^ 125) (n % 2 ^ 125) (2 ^ 124)
  have hdiv : (n + 2 ^ 148) / 2 ^ 125 = n / 2 ^ 125 + 2 * 2 ^ 22 := by omega
  have hmod : (n + 2 ^ 148) % 2 ^ 125 = n % 2 ^ 125 := by omega
  rw [roundUnits_of_leading_one (k := 125) (by norm_num) (by omega) (by omega), hdiv, hmod, roundTiesEven_add_even,
    rne_binary16_of_units hn, min_eq_left]
  · show 125 * 2 ^ 23 + (roundTiesEven (n / 2 ^ 125) (n % 2 ^ 125) (2 ^ 124) + 2 * 2 ^ 22) = _
    omega
  · show 125 * 2 ^ 23 + (roundTiesEven (n / 2 ^ 125) (n % 2 ^ 125) (2 ^ 124) + 2 * 2 ^ 22) ≤ _
    omega

/-- R66's subnormal branch. -/
theorem addF32_half_toNat (flush : Bool) {u : Word32} (h : mag32 u < 0x38800000) :
    ((addF32 flush u 0x3F000000#32 - 0x3F000000#32).extractLsb' 0 16).toNat = binary16.rne (abs32 u) := by
  obtain ⟨hlt, hrne⟩ := rne_binary16_adderUnits flush h
  have hhalf : adderUnits flush 0x3F000000#32 = 2 ^ 148 := adderUnits_normal flush (by decide)
  have hbound := rne_lt (f := binary16) (by decide) (abs32 u)
  rw [addF32, hhalf, roundUnits_add_half hlt, hrne, BitVec.ofNat_add, BitVec.add_comm, BitVec.add_sub_cancel,
    BitVec.extractLsb'_toNat, BitVec.toNat_ofNat, Nat.shiftRight_zero]
  omega

/-- R66's normal branch: the rebias and the rounding bias, with their carry out of bit 31 dropped. -/
theorem roundingBias_toNat {u : Word32} {q r : Nat} (hu : u.toNat = (q + 112 * 2 ^ 10) * 2 ^ 13 + r) (hr : r < 2 ^ 13)
    (hq : q < 2 ^ 15) :
    (((u + 0xC8000FFF#32 + ((u >>> 13) &&& 1#32)) >>> 13).extractLsb' 0 16).toNat = roundTiesEven q r (2 ^ 12) := by
  have hodd : ((u >>> 13) &&& 1#32).toNat = q % 2 := by
    rw [BitVec.toNat_and, BitVec.toNat_ushiftRight, Nat.shiftRight_eq_div_pow, BitVec.toNat_ofNat]
    exact (Nat.and_one_is_mod _).trans (by omega)
  have hbias : (u + 0xC8000FFF#32).toNat = q * 2 ^ 13 + r + 0xFFF := by
    rw [BitVec.toNat_add, BitVec.toNat_ofNat]
    omega
  have hsum : (u + 0xC8000FFF#32 + ((u >>> 13) &&& 1#32)).toNat = q * 2 ^ 13 + r + 0xFFF + q % 2 := by
    rw [BitVec.toNat_add, hbias, hodd]
    omega
  have hdiv : (q * 2 ^ 13 + r + 0xFFF + q % 2) / 2 ^ 13 = roundTiesEven q r (2 ^ 12) := by
    rcases roundTiesEven_cases q r (2 ^ 12) with ⟨h, h'⟩ | ⟨h, h'⟩ <;> rw [h] <;> omega
  have hle := roundTiesEven_le q r (2 ^ 12)
  rw [BitVec.extractLsb'_toNat, BitVec.toNat_ushiftRight, hsum, Nat.shiftRight_zero,
    Nat.shiftRight_eq_div_pow, hdiv]
  omega

/-- R62's normal branch, on the magnitude pattern. -/
theorem halfMagnitude_of_mag32 {a : Word32} {q r : Nat} (ha : mag32 a = (q + 112 * 2 ^ 10) * 2 ^ 13 + r)
    (hr : r < 2 ^ 13) (hlo : 0x38800000 ≤ mag32 a) (hhi : mag32 a < 0x47800000) :
    halfMagnitude (fields32 a).e (fields32 a).m = roundTiesEven q r (2 ^ 12) := by
  have hq : (mag32 a / 2 ^ 23 - 112) * 2 ^ 10 + mag32 a % 2 ^ 23 / 2 ^ 13 = q := by omega
  have hr : mag32 a % 2 ^ 23 % 2 ^ 13 = r := by omega
  rw [fields32_e, fields32_m, halfMagnitude_normal (by omega) (by omega) (by omega), hq, hr]

/-- Settles O22: each branch of the algorithm gives the magnitude of R62, and the sign bit is put over it. -/
theorem halfReferenceAlgorithmAgrees : Obligations.HalfReferenceAlgorithmAgrees := by
  intro thr flush a hlo hhi
  have hu := stripSign_toNat a
  rw [refF32ToF16]
  generalize a ^^^ (a &&& 0x80000000#32) = u at *
  have hmag : mag32 u = mag32 a := by rw [mag32_eq, hu, Nat.mod_eq_of_lt (mag32_lt a)]
  simp only [BitVec.le_def, BitVec.lt_def, hu]
  split_ifs with hbig hnan hsmall
  · rw [or_sign16 a (by decide), f32ToF16_of_nan hnan]
    rfl
  · rw [or_sign16 a (by decide), f32ToF16_of_overflow (hlo.trans hbig) (not_lt.mp hnan)]
    rfl
  · have habs : abs32 u = abs32 a := by rw [abs32_eq_gridPoint, hmag, ← abs32_eq_gridPoint]
    have hp := addF32_half_toNat flush (hmag.trans_lt hsmall)
    rw [habs] at hp
    have hle : mag32 a ≤ 0x7F800000 := (not_le.mp hbig).le.trans (hhi.trans (by norm_num))
    rw [or_sign16 a (hp ▸ rne_lt (by decide) _), hp, f32ToF16_eq_pack_rne hle]
  · have h1 : 0x38800000 ≤ mag32 a := not_lt.mp hsmall
    have h2 : mag32 a < 0x47800000 := (not_le.mp hbig).trans_le hhi
    obtain ⟨q, r, hr, hqr⟩ : ∃ q r, r < 2 ^ 13 ∧ mag32 a = (q + 112 * 2 ^ 10) * 2 ^ 13 + r :=
      ⟨mag32 a / 2 ^ 13 - 112 * 2 ^ 10, mag32 a % 2 ^ 13, by omega, by omega⟩
    have hp := roundingBias_toNat (hu.trans hqr) hr (by omega)
    rw [← halfMagnitude_of_mag32 hqr hr h1 h2] at hp
    rw [or_sign16 a (hp ▸ halfMagnitude_lt (fields32_m_lt a)), hp, f32ToF16, fields32_s]

end Sys2Proof.Machine
end

section
/-! CVT.BF16.F32 (42_bfloat16_codec.md R72, R73, R75): its meaning, NaN, and overflow. -/

namespace Sys2Proof.Machine

/-- Settles O28: the operation and the unit give R72's meaning. -/
theorem cvtBf16F32RoundsToNearestEven : Obligations.CvtBf16F32RoundsToNearestEven := by
  refine ⟨rfl, fun s => ?_, fun s t h => ?_⟩
  · rw [exec_eq, convert, f32ToBf16_eq_bf16Nearest, zext32_eq_append]
  · obtain rfl := eq_of_step_next h
    exact f32ToBf16_eq_bf16Nearest s.f32ToBf16Unit.f32In

theorem mag32_of_class32_nan {a : Word32} (h : class32 a = .nan) : 0x7F800000 < mag32 a := by
  obtain ⟨-, -, -, -, hclass⟩ := class32_iff_magnitude a
  exact hclass.mp h

theorem mag32_le_of_class32_ne_nan {a : Word32} (h : class32 a ≠ .nan) : mag32 a ≤ 0x7F800000 := by
  obtain ⟨-, -, -, -, hclass⟩ := class32_iff_magnitude a
  exact not_lt.mp (mt hclass.mpr h)

/-- Settles O29: the sign chooses between the two canonical NaNs. -/
theorem bfloatOfNaN : Obligations.BfloatOfNaN := by
  intro s he hm
  have hnan : 0x7F800000 < mag32 s.src := mag32_of_class32_nan ((class32_nan_iff _).mpr ⟨he, hm⟩)
  rw [exec_eq, convert, f32ToBf16_nan hnan]
  refine ⟨fun hneg => ?_, fun hpos => ?_⟩
  · rw [hneg]
    rfl
  · rw [hpos]
    rfl

/-- R75: infinity, and every finite magnitude from the last midpoint on, becomes infinity. -/
theorem f32ToBf16_of_overflow {a : Word32} (h : 0x7F7F8000 ≤ mag32 a) (hn : mag32 a ≤ 0x7F800000) :
    f32ToBf16 a = pack16 (a.extractLsb' 31 1) 0x7F80 := by
  rw [f32ToBf16_eq_pack_rne hn, (rne_bfloat16_abs32_eq_top_iff a).mpr h]
  rfl

/-- No binary32 pattern but a NaN narrows to a NaN. -/
theorem classBf16_f32ToBf16_ne_nan {a : Word32} (h : mag32 a ≤ 0x7F800000) : classBf16 (f32ToBf16 a) ≠ .nan := by
  obtain ⟨-, -, -, -, hclass⟩ := classBf16_iff_magnitude (f32ToBf16 a)
  rw [Ne, hclass, mag16_f32ToBf16 h]
  exact not_lt.mpr (bfloat16.rne_le_infPattern _)

/-- Settles O31: both ways to infinity lie above the last midpoint, and `RNE` never passes `Top`. -/
theorem bfloatOverflow : Obligations.BfloatOverflow := by
  intro a
  obtain ⟨-, -, -, hinfinity, -⟩ := class32_iff_magnitude a
  have hle (hf : Finite32 a) : mag32 a ≤ 0x7F800000 := ((finite32_iff_mag32 a).mp hf).le
  refine ⟨fun hf h => f32ToBf16_of_overflow h (hle hf), fun hinf => ?_, fun hf => classBf16_f32ToBf16_ne_nan (hle hf)⟩
  have hmag := hinfinity.mp hinf
  exact f32ToBf16_of_overflow (by omega) hmag.le

end Sys2Proof.Machine
end

section
/-! The rounding addition of CVT.BF16.F32 (42_bfloat16_codec.md R74): the bits it adds up, in plain arithmetic. -/

namespace Sys2Proof.Machine

theorem lowerHalf_toNat (a : Word32) : (a.extractLsb' 0 16).toNat = mag32 a % 2 ^ 16 := by
  rw [BitVec.extractLsb'_toNat, mag32_eq, Nat.shiftRight_zero]
  omega

theorem upperHalf_toNat (a : Word32) :
    (a.extractLsb' 16 16).toNat = (a.extractLsb' 31 1).toNat * 2 ^ 15 + mag32 a / 2 ^ 16 := by
  have hlt := a.isLt
  have hsum := toNat_eq_sign_mag32 a
  rw [BitVec.extractLsb'_toNat, Nat.shiftRight_eq_div_pow]
  omega

/-- The retained bit `a[16]` is the parity of the truncated magnitude. -/
theorem retainedBit_toNat (a : Word32) : (a.extractLsb' 16 1).toNat = mag32 a / 2 ^ 16 % 2 := by
  rw [BitVec.extractLsb'_toNat, mag32_eq, Nat.shiftRight_eq_div_pow]
  omega

theorem retainedBit_eq_one_iff (a : Word32) : a.extractLsb' 16 1 = 1#1 ↔ mag32 a / 2 ^ 16 % 2 = 1 := by
  rw [← retainedBit_toNat, ← BitVec.toNat_inj]
  rfl

/-- R56, R74: the rounding step adds 1 on its test and 0 otherwise. -/
theorem roundTiesEven_eq_add (q r half : Nat) :
    roundTiesEven q r half = q + (if half < r ∨ (r = half ∧ q % 2 = 1) then 1 else 0) := by
  unfold roundTiesEven
  split_ifs <;> rfl

/-- R74: the carry into bit 16 is the rounding step's own test. -/
theorem f32ToBf16_toNat {a : Word32} (h : mag32 a ≤ 0x7F800000) :
    (f32ToBf16 a).toNat = (a.extractLsb' 16 16).toNat +
      (if 0x8000 < (a.extractLsb' 0 16).toNat ∨
          ((a.extractLsb' 0 16).toNat = 0x8000 ∧ a.extractLsb' 16 1 = 1#1) then 1 else 0) := by
  have hround := roundTiesEven_le (mag32 a / 2 ^ 16) (mag32 a % 2 ^ 16) (2 ^ 15)
  rw [f32ToBf16_eq_pack h, pack16_toNat, Nat.mod_eq_of_lt (by omega), roundTiesEven_eq_add, ← add_assoc, upperHalf_toNat,
    lowerHalf_toNat]
  simp only [retainedBit_eq_one_iff]
  rfl

/-- Settles O30: the sum stays below the next sign bit, since an infinity has its retained bit clear. -/
theorem bfloatRoundingAddition : Obligations.BfloatRoundingAddition := by
  intro a hn
  have hle := mag32_le_of_class32_ne_nan hn
  have hsum := toNat_eq_sign_mag32 a
  have hsign := (a.extractLsb' 31 1).isLt
  have hbit := retainedBit_toNat a
  refine ⟨by omega, fun hpos => ?_, sign_f32ToBf16 a, f32ToBf16_toNat hle, fun _ => mag16_f32ToBf16 hle⟩
  have hzero : (a.extractLsb' 31 1).toNat = 0 := by rw [hpos]; rfl
  omega

end Sys2Proof.Machine
end

section
/-! CVT.BF16.F32 on subnormals (42_bfloat16_codec.md R76). Every point of bfloat16's grid is a point of binary32's. -/

namespace Sys2Proof.Machine

theorem binary32_units_shifted (e m : Nat) : binary32.units e (m * 2 ^ 16) = bfloat16.units e m * 2 ^ 16 := by
  cases e with
  | zero => rfl
  | succ k =>
    simp only [Format.units_succ, binary32_manBits, bfloat16_manBits]
    ring

/-- R50 on the grids: a bfloat16 point is the binary32 point with sixteen zero bits appended. -/
theorem bfloat16_gridPoint_eq (p : Nat) : bfloat16.gridPoint p = binary32.gridPoint (p * 2 ^ 16) := by
  have hdiv : p * 2 ^ 16 / 2 ^ 23 = p / 2 ^ 7 := by omega
  have hmod : p * 2 ^ 16 % 2 ^ 23 = p % 2 ^ 7 * 2 ^ 16 := by omega
  rw [Format.gridPoint, Format.gridPoint, binary32_manBits, bfloat16_manBits, hdiv, hmod]
  exact (Format.ordinary_eq_ordinary bfloat16_ulp (binary32_units_shifted _ _)).symm

theorem bfloat16_gridPoint_le_abs32_iff (p : Nat) (a : Word32) :
    bfloat16.gridPoint p ≤ abs32 a ↔ p ≤ mag32 a / 2 ^ 16 := by
  rw [bfloat16_gridPoint_eq, gridPoint_le_abs32_iff, Nat.le_div_iff_mul_le (by norm_num)]

/-- R53: bfloat16's smallest value. -/
theorem bfloat16_ulp_eq : bfloat16.ulp = 2 ^ (-133 : ℤ) := by norm_num [Format.ulp, bfloat16]

/-- Settles O32: below 2^-126 bfloat16's grid is the multiples of 2^-133. -/
theorem bfloatOfSubnormals : Obligations.BfloatOfSubnormals := by
  intro a hsub
  obtain ⟨-, hclass, -⟩ := class32_iff_magnitude a
  obtain ⟨-, hmag⟩ := hclass.mp hsub
  have hhalf : bfloat16.ulp / 2 = 2 ^ (-134 : ℤ) := by norm_num [bfloat16_ulp_eq]
  have hx : abs32 a < bfloat16.gridPoint (2 ^ bfloat16.manBits) := by
    rw [← not_le, bfloat16_gridPoint_le_abs32_iff, bfloat16_manBits]
    omega
  obtain ⟨hle, hnear, hties⟩ := Format.rne_nearest_of_small (by decide) (abs32_nonneg a) hx
  rw [hhalf, bfloat16_ulp_eq] at hnear hties
  exact ⟨_, hle, f32ToBf16_eq_pack_rne (by omega), hnear, hties⟩

end Sys2Proof.Machine
end

section
/-! CVT.F32.BF16 (42_bfloat16_codec.md R77, R78). -/

namespace Sys2Proof.Machine

/-- Settles O33: the operation and the unit append the zero bits, and that keeps the value. -/
theorem cvtF32Bf16WidensExactly : Obligations.CvtF32Bf16WidensExactly := by
  refine ⟨rfl, exec_eq .cvtF32Bf16, fun s t h => ?_⟩
  obtain rfl := eq_of_step_next h
  exact ⟨rfl, bf16ToF32_widens s.bf16ToF32Unit.bf16In⟩

/-- R78: the payload moves up by 16 places. -/
theorem payload_bf16ToF32 (b : Word16) : (bf16ToF32 b).extractLsb' 16 7 = b.extractLsb' 0 7 := by
  apply BitVec.eq_of_toNat_eq
  rw [BitVec.extractLsb'_toNat, BitVec.extractLsb'_toNat, bf16ToF32_toNat, Nat.shiftRight_eq_div_pow,
    Nat.shiftRight_zero, Nat.mul_div_cancel _ (by norm_num)]

theorem lowerHalf_bf16ToF32 (b : Word16) : (bf16ToF32 b).extractLsb' 0 16 = 0#16 := lowHalf_append b 0#16

theorem isSignaling_bf16ToF32 (b : Word16) :
    binary32.isSignaling (fields32 (bf16ToF32 b)) = bfloat16.isSignaling (fieldsBf16 b) := by
  have hclass : binary32.classOf (fields32 (bf16ToF32 b)) = bfloat16.classOf (fieldsBf16 b) :=
    (classBf16_eq_class32 b).symm
  have hquiet : ((fieldsBf16 b).m * 2 ^ 16).testBit 22 = (fieldsBf16 b).m.testBit 6 := by
    rw [Nat.testBit_mul_two_pow, decide_eq_true (by norm_num : 16 ≤ 22), Bool.true_and]
  rw [Format.isSignaling, Format.isSignaling, hclass, fields32_bf16ToF32, binary32_manBits, bfloat16_manBits]
  exact congrArg (_ && !·) hquiet

/-- Settles O34: class, sign, payload and quiet bit of the widened pattern are those of the narrow one. -/
theorem bfloatNaNWidens : Obligations.BfloatNaNWidens :=
  fun b hnan => ⟨(classBf16_eq_class32 b).symm.trans hnan, sign_bf16ToF32 b, payload_bf16ToF32 b, lowerHalf_bf16ToF32 b,
    isSignaling_bf16ToF32 b⟩

end Sys2Proof.Machine
end

section
/-! The round trip from bfloat16 (42_bfloat16_codec.md R79). -/

namespace Sys2Proof.Machine

/-- R79: the appended low half is 0, below the midpoint, so rounding is exact. -/
theorem f32ToBf16_bf16ToF32 {b : Word16} (h : mag16 b ≤ 0x7F80) : f32ToBf16 (bf16ToF32 b) = b := by
  have hle : mag32 (bf16ToF32 b) ≤ 0x7F800000 := by rw [mag32_bf16ToF32]; omega
  rw [f32ToBf16_eq_pack hle, sign_bf16ToF32, mag32_bf16ToF32, Nat.mul_div_cancel _ (by norm_num), Nat.mul_mod_left,
    roundTiesEven_exact _ (by norm_num), pack16_sign_mag16]

theorem bf16ToF32_injective : Function.Injective bf16ToF32 := by
  intro b c h
  have hnat := congrArg BitVec.toNat h
  rw [bf16ToF32_toNat, bf16ToF32_toNat] at hnat
  exact BitVec.eq_of_toNat_eq (by omega)

/-- Settles O35: what is no NaN comes back by exact rounding, and a NaN goes by R73. -/
theorem bfloatRoundTrip : Obligations.BfloatRoundTrip := by
  refine ⟨fun b hn => ?_, fun b hnan => ?_, fun _ _ h => bf16ToF32_injective h⟩
  · obtain ⟨-, -, -, -, hclass⟩ := classBf16_iff_magnitude b
    exact f32ToBf16_bf16ToF32 (not_lt.mp (mt hclass.mpr hn))
  · rw [classBf16_eq_class32] at hnan
    rw [f32ToBf16_nan (mag32_of_class32_nan hnan), sign_bf16ToF32]

end Sys2Proof.Machine
end

section
/-! The round trip from binary32 (42_bfloat16_codec.md R80): rounding moves a value by at most half a step of the grid. -/

namespace Sys2Proof

/-- R56: the rounded value is no further away than half the distance of the two adjacent grid points. -/
theorem Format.abs_gridPoint_rne_sub_le {f : Format} {x : ℚ} {lo : Nat} (hlo : lo < f.infPattern)
    (hlow : f.gridPoint lo ≤ x) (hhigh : x < f.gridPoint (lo + 1)) :
    |f.gridPoint (f.rne x) - x| ≤ (f.gridPoint (lo + 1) - f.gridPoint lo) / 2 := by
  have hcases := f.rne_cases x
  rw [f.floorPattern_eq hlo.le hlow hhigh, RoundsUp] at hcases
  rcases hcases with ⟨⟨-, hup⟩, hrne⟩ | ⟨hdown, hrne⟩ <;> rw [hrne]
  · rw [abs_of_nonneg (by linarith)]
    rcases hup with habove | ⟨hmid, -⟩ <;> linarith
  · rw [abs_of_nonpos (by linarith)]
    have hbelow := (not_or.mp (not_and.mp hdown hlo)).1
    linarith

namespace Machine

/-- R50: a widened pattern's value is its own grid point. -/
theorem abs32_bf16ToF32 (b : Word16) : abs32 (bf16ToF32 b) = bfloat16.gridPoint (mag16 b) := by
  rw [abs32_eq_gridPoint, mag32_bf16ToF32, bfloat16_gridPoint_eq]

theorem bf16ToF32_upperHalf {a : Word32} (h : a.extractLsb' 0 16 = 0#16) : bf16ToF32 (a.extractLsb' 16 16) = a := by
  have hhalves : a.extractLsb' 16 16 ++ a.extractLsb' 0 16 = a.extractLsb' 0 32 :=
    BitVec.extractLsb'_append_extractLsb'_eq_extractLsb' rfl
  rw [bf16ToF32, ← h, hhalves, BitVec.extractLsb'_eq_self]

/-- R80: a pattern survives narrowing exactly when it is a widened one. -/
theorem bf16ToF32_f32ToBf16_eq_iff {a : Word32} (h : mag32 a ≤ 0x7F800000) :
    bf16ToF32 (f32ToBf16 a) = a ↔ a.extractLsb' 0 16 = 0#16 where
  mp heq := by rw [← heq, lowerHalf_bf16ToF32]
  mpr hlow := by
    obtain ⟨b, rfl⟩ : ∃ b, bf16ToF32 b = a := ⟨_, bf16ToF32_upperHalf hlow⟩
    rw [mag32_bf16ToF32] at h
    rw [f32ToBf16_bf16ToF32 (by omega)]

/-- Settles O36: the two adjacent points are those of the truncated magnitude and of the next one. -/
theorem bfloatNarrowedAndWidenedAgain : Obligations.BfloatNarrowedAndWidenedAgain := by
  refine ⟨fun a hf _ => ?_, fun a hf h => ?_, fun a hnan => ?_⟩
  · have hmag := (finite32_iff_mag32 a).mp hf
    have hlo : mag32 a / 2 ^ 16 < bfloat16.infPattern := by
      show mag32 a / 2 ^ 16 < 0x7F80
      omega
    have hlow : bfloat16.gridPoint (mag32 a / 2 ^ 16) ≤ abs32 a := (bfloat16_gridPoint_le_abs32_iff _ a).mpr le_rfl
    have hhigh : abs32 a < bfloat16.gridPoint (mag32 a / 2 ^ 16 + 1) := by
      rw [← not_le, bfloat16_gridPoint_le_abs32_iff]
      omega
    refine ⟨_, hlo, hlow, hhigh, ?_, ?_, bf16ToF32_f32ToBf16_eq_iff hmag.le⟩
    · rw [abs32_bf16ToF32, mag16_f32ToBf16 hmag.le]
      exact Format.abs_gridPoint_rne_sub_le hlo hlow hhigh
    · rw [sign_bf16ToF32, sign_f32ToBf16]
  · rw [f32ToBf16_of_overflow h ((finite32_iff_mag32 a).mp hf).le]
    exact BitVec.append_assoc ..
  · rw [f32ToBf16_nan (mag32_of_class32_nan hnan)]
    split_ifs <;> rfl

end Machine
end Sys2Proof
end

section
/-! Reading the outputs (60_exceptions.md R95, 70_reset_and_hazards.md R101): in a settled state each reading gives the
rule's result for the held input. -/

namespace Sys2Proof.Machine

namespace State

@[simp] theorem settled_readDst? (s : State) : s.settled.readDst? = some (convert (decodeOp s.op) s.src) := if_pos rfl

@[simp] theorem settled_readF16Out? (s : State) : s.settled.readF16Out? = some (f32ToF16 s.f32ToF16Unit.f32In) :=
  if_pos rfl

@[simp] theorem settled_readBf16Out? (s : State) : s.settled.readBf16Out? = some (f32ToBf16 s.f32ToBf16Unit.f32In) :=
  if_pos rfl

@[simp] theorem settled_readF16F32Out? (s : State) : s.settled.readF16F32Out? = some (f16ToF32 s.f16ToF32Unit.f16In) :=
  if_pos rfl

@[simp] theorem settled_readBf16F32Out? (s : State) :
    s.settled.readBf16F32Out? = some (bf16ToF32 s.bf16ToF32Unit.bf16In) :=
  if_pos rfl

end State

/-- Settles O16: the step settles the driven state, whose input ports hold the driven values. -/
theorem drivenInputsAreReadAfterSettling : Obligations.DrivenInputsAreReadAfterSettling :=
  fun _ _ _ _ _ _ _ => ⟨_, step_eq_settled _, State.settled_readDst? _, State.settled_readF16Out? _,
    State.settled_readBf16Out? _, State.settled_readF16F32Out? _, State.settled_readBf16F32Out? _⟩

end Sys2Proof.Machine
end

section
/-! When each condition of R82's table arises (60_exceptions.md), by the magnitude pattern: one lemma per condition. -/

namespace Sys2Proof.Machine

theorem arises_overflow_iff {i : Instr} {src : Word32} :
    arises i src .overflow = true ↔ Finite32 src ∧ overflowThreshold i ≤ mag32 src := by
  simp [arises]

theorem arises_underflow_iff {i : Instr} {src : Word32} :
    arises i src .underflow = true ↔ 0 < mag32 src ∧ mag32 src < normalThreshold i := by
  simp [arises]

theorem arises_inexact_iff {i : Instr} {src : Word32} :
    arises i src .inexact = true ↔ Finite32 src ∧ roundTripDiffers i src = true := by
  simp [arises]

/-- R82: no condition but invalid arises for a NaN. -/
theorem mag32_le_of_arises {i : Instr} {src : Word32} {c : Condition} (h : arises i src c = true) (hc : c ≠ .invalid) :
    mag32 src ≤ 0x7F800000 := by
  have hthreshold : normalThreshold i ≤ 0x38800000 := by cases i <;> decide
  cases c with
  | invalid => exact absurd rfl hc
  | overflow => exact ((finite32_iff_mag32 src).mp (arises_overflow_iff.mp h).1).le
  | underflow =>
    have hsmall := (arises_underflow_iff.mp h).2
    omega
  | inexact => exact ((finite32_iff_mag32 src).mp (arises_inexact_iff.mp h).1).le
  | divideByZero => exact nomatch h

/-- R82: widening meets no condition but invalid, as it narrows nothing. -/
theorem arises_eq_false_of_up {i : Instr} (hup : i.isDown = false) (src : Word32) {c : Condition} (hc : c ≠ .invalid) :
    arises i src c = false := by
  obtain ⟨hover, hunder, hround⟩ :
      overflowThreshold i = 2 ^ 31 ∧ normalThreshold i = 0 ∧ roundTripDiffers i src = false := by
    cases i with
    | cvtF16F32 => exact nomatch hup
    | cvtBf16F32 => exact nomatch hup
    | cvtF32F16 => exact ⟨rfl, rfl, rfl⟩
    | cvtF32Bf16 => exact ⟨rfl, rfl, rfl⟩
  rw [← Bool.not_eq_true]
  cases c with
  | invalid => exact absurd rfl hc
  | overflow =>
    have hlt := mag32_lt src
    rw [arises_overflow_iff, hover]
    omega
  | underflow =>
    rw [arises_underflow_iff, hunder]
    omega
  | inexact => simp [arises_inexact_iff, hround]
  | divideByZero => exact Bool.false_ne_true

/-- The top bit of a mantissa field, told by the pattern. -/
theorem testBit_field_eq_false_iff {w n k : Nat} (x : BitVec w) (hk : k < n) :
    (x.extractLsb' 0 n).toNat.testBit k = false ↔ x.extractLsb' k 1 = 0#1 := by
  rw [BitVec.testBit_toNat, BitVec.getLsbD_extractLsb', decide_eq_true hk, Bool.true_and, Nat.zero_add,
    BitVec.getLsbD_eq_extractLsb']
  generalize x.extractLsb' k 1 = b
  revert b
  decide

/-- R54 for a pattern whose mantissa field stands at the bottom. -/
theorem isSignaling_iff {f : Format} {x : Fields} {w n k : Nat} {v : BitVec w} (hm : x.m = (v.extractLsb' 0 n).toNat)
    (hn : f.manBits = n) (hk : n = k + 1) :
    f.isSignaling x = true ↔ f.classOf x = .nan ∧ v.extractLsb' k 1 = 0#1 := by
  have hbit := testBit_field_eq_false_iff v (n := n) (k := k) (by omega)
  simp [Format.isSignaling, hm, hn, ← hbit, hk]

theorem arises_invalid_iff_of_down {i : Instr} (hdown : i.isDown = true) {src : Word32} :
    arises i src .invalid = true ↔ class32 src = .nan ∧ src.extractLsb' 22 1 = 0#1 := by
  cases i with
  | cvtF16F32 => exact isSignaling_iff rfl rfl rfl
  | cvtBf16F32 => exact isSignaling_iff rfl rfl rfl
  | cvtF32F16 => exact nomatch hdown
  | cvtF32Bf16 => exact nomatch hdown

/-- Every field of an up-conversion's operand is a field of `src`. -/
theorem lowHalf_extractLsb' (src : Word32) {start len : Nat} (h : start + len ≤ 16) :
    (lowHalf src).extractLsb' start len = src.extractLsb' start len :=
  BitVec.extractLsb'_extractLsb'_of_le h

theorem arises_invalid_cvtF32F16_iff {src : Word32} :
    arises .cvtF32F16 src .invalid = true ↔ class16 (lowHalf src) = .nan ∧ src.extractLsb' 9 1 = 0#1 := by
  rw [← lowHalf_extractLsb' src (by norm_num)]
  exact isSignaling_iff rfl rfl rfl

theorem arises_invalid_cvtF32Bf16_iff {src : Word32} :
    arises .cvtF32Bf16 src .invalid = true ↔ classBf16 (lowHalf src) = .nan ∧ src.extractLsb' 6 1 = 0#1 := by
  rw [← lowHalf_extractLsb' src (by norm_num)]
  exact isSignaling_iff rfl rfl rfl

end Sys2Proof.Machine
end

section
/-! Where the conditions of R82's table arise, told by values (60_exceptions.md). -/

namespace Sys2Proof.Machine

theorem abs32_pos_iff (a : Word32) : 0 < abs32 a ↔ 0 < mag32 a := by
  have h : binary32.gridPoint 0 = 0 := by norm_num [Format.gridPoint, Format.ordinary]
  rw [← h, abs32_eq_gridPoint]
  exact binary32.gridPoint_strictMono.lt_iff_lt

theorem abs32_lt_gridPoint_iff (a : Word32) (p : Nat) : abs32 a < binary32.gridPoint p ↔ mag32 a < p := by
  rw [← not_le, gridPoint_le_abs32_iff, not_le]

/-- R65: the smallest normal of binary16. -/
theorem binary32_gridPoint_halfNormal : binary32.gridPoint 0x38800000 = 2 ^ (-14 : ℤ) := by
  norm_num [Format.gridPoint, Format.ordinary, binary32]

/-- R76: the smallest normal of bfloat16. -/
theorem binary32_gridPoint_bfloatNormal : binary32.gridPoint 0x00800000 = 2 ^ (-126 : ℤ) := by
  norm_num [Format.gridPoint, Format.ordinary, binary32]

theorem arises_underflow_iff_abs32 {i : Instr} {src : Word32} :
    arises i src .underflow = true ↔ 0 < abs32 src ∧ abs32 src < binary32.gridPoint (normalThreshold i) := by
  rw [arises_underflow_iff, abs32_pos_iff, abs32_lt_gridPoint_iff]

/-- R15, R71: a finite pattern survives narrowing to binary16 exactly when its value is a finite point of that grid. -/
theorem f16ToF32_f32ToF16_eq_iff {a : Word32} (hf : Finite32 a) :
    f16ToF32 (f32ToF16 a) = a ↔ ∃ p, p < 0x7C00 ∧ binary16.gridPoint p = abs32 a := by
  have hfinite := (finite32_iff_mag32 a).mp hf
  constructor
  · intro heq
    have hnarrow : mag16 (f32ToF16 a) < 0x7C00 := by
      by_contra! hinf
      have hmag := mag32_f16ToF32_of_exponent_31 hinf
      rw [heq] at hmag
      omega
    exact ⟨_, hnarrow, by rw [← (abs32_f16ToF32 hnarrow).2, heq]⟩
  · rintro ⟨p, hp, hgrid⟩
    have hnarrow : mag16 (f32ToF16 a) = p := by
      rw [mag16_f32ToF16 hfinite.le, ← hgrid]
      exact Format.rne_gridPoint hp.le
    have habs : abs32 (f16ToF32 (f32ToF16 a)) = abs32 a := by
      rw [(abs32_f16ToF32 (hnarrow.trans_lt hp)).2, hnarrow, hgrid]
    refine eq_of_sign_mag32 ((sign_f16ToF32 _).trans (sign_f32ToF16 a)) ?_
    rw [abs32_eq_gridPoint, abs32_eq_gridPoint] at habs
    exact binary32.gridPoint_strictMono.injective habs

theorem arises_inexact_cvtF16F32_iff {src : Word32} : arises .cvtF16F32 src .inexact = true ↔
    Finite32 src ∧ ∀ p : Nat, p < 0x7C00 → binary16.gridPoint p ≠ abs32 src := by
  rw [arises_inexact_iff, roundTripDiffers, bne_iff_ne]
  refine and_congr_right fun hf => ?_
  rw [Ne, f16ToF32_f32ToF16_eq_iff hf, not_exists]
  exact forall_congr' fun p => not_and

theorem arises_inexact_cvtBf16F32_iff {src : Word32} :
    arises .cvtBf16F32 src .inexact = true ↔ Finite32 src ∧ src.extractLsb' 0 16 ≠ 0#16 := by
  rw [arises_inexact_iff, roundTripDiffers, bne_iff_ne]
  exact and_congr_right fun hf => not_congr (bf16ToF32_f32ToBf16_eq_iff ((finite32_iff_mag32 src).mp hf).le)

/-- Settles O50: the thresholds are binary32 values, and a widened pattern is a grid point. -/
theorem conditionsAriseWhereTheTableSays : Obligations.ConditionsAriseWhereTheTableSays := by
  intro src
  refine ⟨arises_invalid_iff_of_down rfl, arises_invalid_iff_of_down rfl, arises_invalid_cvtF32F16_iff,
    arises_invalid_cvtF32Bf16_iff, ?_, ?_, ?_, ?_, arises_inexact_cvtF16F32_iff, arises_inexact_cvtBf16F32_iff⟩
  · rw [binary16_overflow_iff_mag32]
    exact arises_overflow_iff
  · rw [bfloat16_overflow_iff_mag32]
    exact arises_overflow_iff
  · rw [← binary32_gridPoint_halfNormal]
    exact arises_underflow_iff_abs32
  · rw [← binary32_gridPoint_bfloatNormal]
    exact arises_underflow_iff_abs32

end Sys2Proof.Machine
end

section
/-! What each operation answers where R82's table names a condition (60_exceptions.md). -/

namespace Sys2Proof.Machine

theorem exec_cvtF16F32_of_pack {s : State} {p : Nat} (h : f32ToF16 s.src = pack16 (s.src.extractLsb' 31 1) p) :
    exec .cvtF16F32 s = .next { s with dst := 0#16 ++ (s.src.extractLsb' 31 1 ++ BitVec.ofNat 15 p) } := by
  rw [exec_eq, convert, zext32_eq_append, h]
  rfl

theorem exec_cvtBf16F32_of_pack {s : State} {p : Nat} (h : f32ToBf16 s.src = pack16 (s.src.extractLsb' 31 1) p) :
    exec .cvtBf16F32 s = .next { s with dst := 0#16 ++ (s.src.extractLsb' 31 1 ++ BitVec.ofNat 15 p) } := by
  rw [exec_eq, convert, zext32_eq_append, h]
  rfl

/-- R73: the two canonical NaNs are one magnitude under the input's sign. -/
theorem f32ToBf16_of_nan {a : Word32} (h : 0x7F800000 < mag32 a) :
    f32ToBf16 a = pack16 (a.extractLsb' 31 1) 0x7FC0 := by
  rw [f32ToBf16_nan h]
  generalize a.extractLsb' 31 1 = s
  revert s
  decide

theorem mag32_of_arises_invalid {i : Instr} (hdown : i.isDown = true) {src : Word32}
    (h : arises i src .invalid = true) : 0x7F800000 < mag32 src :=
  mag32_of_class32_nan ((arises_invalid_iff_of_down hdown).mp h).1

/-- R68: a signaling binary16 NaN stays one, with its sign and its payload moved up. -/
theorem f16ToF32_of_signaling {src : Word32} (h : arises .cvtF32F16 src .invalid = true) :
    binary32.isSignaling (fields32 (f16ToF32 (lowHalf src))) = true ∧
      value32 (f16ToF32 (lowHalf src)) = .nan (src.extractLsb' 15 1) ((src.extractLsb' 0 10).toNat * 2 ^ 13) := by
  have hnan : class16 (lowHalf src) = .nan := (arises_invalid_cvtF32F16_iff.mp h).1
  have h31 : (fields16 (lowHalf src)).e = 31 := ((Format.classOf_eq_nan_iff _ _).mp hnan).1
  obtain ⟨-, hsignaling, -⟩ := halfNaNAndInfinityWiden _ h31
  have hvalue := f16ToF32_widens (lowHalf src)
  rw [WidensF16, if_pos hnan] at hvalue
  rw [← lowHalf_extractLsb' src (start := 15) (by norm_num), ← lowHalf_extractLsb' src (len := 10) (by norm_num)]
  exact ⟨hsignaling.trans h, hvalue⟩

/-- R78: a signaling bfloat16 NaN stays one, with its sign and its payload moved up. -/
theorem bf16ToF32_of_signaling {src : Word32} (h : arises .cvtF32Bf16 src .invalid = true) :
    binary32.isSignaling (fields32 (bf16ToF32 (lowHalf src))) = true ∧
      value32 (bf16ToF32 (lowHalf src)) = .nan (src.extractLsb' 15 1) ((src.extractLsb' 0 7).toNat * 2 ^ 16) := by
  have hnan : classBf16 (lowHalf src) = .nan := (arises_invalid_cvtF32Bf16_iff.mp h).1
  have hvalue := (bf16ToF32_widens (lowHalf src)).trans (valueBf16_of_nan hnan)
  rw [← lowHalf_extractLsb' src (start := 15) (by norm_num), ← lowHalf_extractLsb' src (len := 7) (by norm_num)]
  exact ⟨(isSignaling_bf16ToF32 _).trans h, hvalue⟩

theorem mag32_le_of_underflow_or_inexact {i : Instr} {src : Word32}
    (h : arises i src .underflow = true ∨ arises i src .inexact = true) : mag32 src ≤ 0x7F800000 :=
  h.elim (mag32_le_of_arises · nofun) (mag32_le_of_arises · nofun)

/-- `RNE` is monotone and keeps the destination's smallest normal, so what lies below rounds to at most that. -/
theorem rne_le_of_underflow {f : Format} {i : Instr} {src : Word32} {p : Nat} (hp : p ≤ f.infPattern)
    (hnormal : binary32.gridPoint (normalThreshold i) = f.gridPoint p) (h : arises i src .underflow = true) :
    f.rne (abs32 src) ≤ p := by
  have hbelow : abs32 src ≤ f.gridPoint p := (arises_underflow_iff_abs32.mp h).2.le.trans_eq hnormal
  exact (f.rne_mono hbelow).trans_eq (Format.rne_gridPoint hp)

/-- Settles O43: each condition puts the operand in a range where the conversion's result is known. -/
theorem conditionsGiveTheTabledResults : Obligations.ConditionsGiveTheTabledResults := by
  intro s
  refine ⟨fun h => ?_, fun h => ?_, fun h => ?_, fun h => ?_, fun h => ?_, fun h => ?_, fun h => ?_, fun h => ?_,
    fun h => ?_, fun h => ?_, fun c hc => ?_, fun _ => rfl⟩
  · exact exec_cvtF16F32_of_pack (f32ToF16_of_nan (mag32_of_arises_invalid rfl h))
  · exact exec_cvtBf16F32_of_pack (f32ToBf16_of_nan (mag32_of_arises_invalid rfl h))
  · exact ⟨_, exec_eq _ s, f16ToF32_of_signaling h⟩
  · exact ⟨_, exec_eq _ s, bf16ToF32_of_signaling h⟩
  · exact exec_cvtF16F32_of_pack (f32ToF16_of_overflow (arises_overflow_iff.mp h).2 (mag32_le_of_arises h nofun))
  · exact exec_cvtBf16F32_of_pack (f32ToBf16_of_overflow (arises_overflow_iff.mp h).2 (mag32_le_of_arises h nofun))
  · exact exec_cvtF16F32_of_pack (f32ToF16_eq_pack_rne (mag32_le_of_underflow_or_inexact h))
  · exact exec_cvtBf16F32_of_pack (f32ToBf16_eq_pack_rne (mag32_le_of_underflow_or_inexact h))
  · refine rne_le_of_underflow (by decide) ?_ h
    norm_num [normalThreshold, Format.gridPoint, Format.ordinary, binary16, binary32]
  · refine rne_le_of_underflow (by decide) ?_ h
    norm_num [normalThreshold, Format.gridPoint, Format.ordinary, bfloat16, binary32]
  · exact ⟨arises_eq_false_of_up rfl s.src hc, arises_eq_false_of_up rfl s.src hc⟩

end Sys2Proof.Machine
end

section
/-! The start of a run (70_reset_and_hazards.md): its outputs are already settled, so it is the state a step leaves. -/

namespace Sys2Proof.Machine

/-- R97 and R98: at the start every output already equals its rule applied to its input, so nothing is to be settled. -/
theorem State.settled_reset : State.reset.settled = State.reset := by decide

/-- Settles O12: the start is its own next state, and every step leaves faithful outputs. -/
theorem outputsFaithfulAtReset : Obligations.OutputsFaithfulAtReset :=
  everyStepLeavesOutputsFaithful State.reset State.reset
    ((step_eq_settled State.reset).trans (congrArg _ State.settled_reset))

end Sys2Proof.Machine
end

section
/-! The source's own examples (95_test_vectors.md L1), each by the rule that gives it. -/

namespace Sys2Proof.Machine

/-- R62's normal branch on a pattern: above 2^-14 the magnitude is rebased by 112 exponents and loses 13 bits. -/
theorem f32ToF16_of_normal {a : Word32} {q r : Nat} (ha : mag32 a = (q + 112 * 2 ^ 10) * 2 ^ 13 + r) (hr : r < 2 ^ 13)
    (hlo : 0x38800000 ≤ mag32 a) (hhi : mag32 a < 0x47800000) :
    f32ToF16 a = pack16 (a.extractLsb' 31 1) (roundTiesEven q r (2 ^ 12)) := by
  rw [f32ToF16, halfMagnitude_of_mag32 ha hr hlo hhi, fields32_s]

/-- Settles O48: each vector by its rule, the midpoints as a pattern with exactly half a unit left over. -/
theorem sourceVectors : Obligations.SourceVectors := by
  have hone : f32ToF16 0x3F800000#32 = 0x3C00#16 :=
    f32ToF16_of_normal (q := 0x3C00) (r := 0) (by decide) (by decide) (by decide) (by decide)
  have hevenBelow : f32ToF16 0x3F801000#32 = 0x3C00#16 :=
    f32ToF16_of_normal (q := 0x3C00) (r := 2 ^ 12) (by decide) (by decide) (by decide) (by decide)
  have hoddBelow : f32ToF16 0x3F803000#32 = 0x3C02#16 :=
    f32ToF16_of_normal (q := 0x3C01) (r := 2 ^ 12) (by decide) (by decide) (by decide) (by decide)
  have hinf : f32ToF16 0x7F800000#32 = 0x7C00#16 := f32ToF16_of_overflow (by decide) (by decide)
  have hzeros : f32ToF16 0x00000000#32 = 0x0000#16 ∧ f32ToF16 0x80000000#32 = 0x8000#16 := by decide
  have hwiden : f16ToF32 0x3C00#16 = 0x3F800000#32 := by decide
  exact ⟨hzeros.1, hzeros.2, hone, hwiden, hinf, f32ToF16_of_nan (by decide), f32ToF16_of_nan (by decide),
    f32ToBf16_of_nan (by decide), f32ToBf16_of_nan (by decide), f32ToBf16_eq_pack (by decide),
    f32ToBf16_eq_pack (by decide), hevenBelow, hoddBelow, rfl⟩

end Sys2Proof.Machine
end
